-- ==== Sys2Proof/Word.lean ====
section
/-! DEFINITION. The two word types of the core: u8 and u16 (00_scope.md R8). -/

namespace Sys2Proof

/-- A u8: one byte of memory, or an 8-bit register (R8, R16). -/
abbrev Byte := BitVec 8

/-- A u16: an address, PC, SP, or a register pair's value (R8, R41, R22). -/
abbrev Word := BitVec 16

end Sys2Proof
end

