-- ==== Sys2Proof/Config.lean ====
section
/-! DEFINITION. The types of the parameters that the sources leave open (00_scope.md R7; 92_eei_decisions.md, "Parameters,
collected"). Their default values stand in Machine/Defaults.lean. -/

namespace Sys2Proof

/-- A cycle cost. "Cycle costs are fixed integers per opcode variant (4, 8, 12, or 20 in the demonstrated subset)" (R81): a cost
outside that set contradicts the source (R125), so this type has no other value. -/
inductive CycleCost where
  | four
  | eight
  | twelve
  | twenty
  deriving DecidableEq, Repr

/-- A cost as the number of cycle units the counter adds (R12, R78). -/
def CycleCost.units : CycleCost → Nat
  | .four => 4
  | .eight => 8
  | .twelve => 12
  | .twenty => 20

/-- The parameter `CYCLE_COST`: one cost for each of the opcodes 0x02 to 0x08 (R7, D2). The costs of 0x00 and 0x01 are the
source's and no parameter. -/
structure CycleCosts where
  op02 : CycleCost
  op03 : CycleCost
  op04 : CycleCost
  op05 : CycleCost
  op06 : CycleCost
  op07 : CycleCost
  op08 : CycleCost
  deriving DecidableEq, Repr

/-- The parameters of R7 that a tick reads: `CYCLE_COST`, and `CYCLE_COUNTER_WIDTH` (`none` is unbounded, D8). -/
structure Params where
  cycleCost    : CycleCosts
  counterWidth : Option Nat
  deriving DecidableEq, Repr

/-- The parameter `RESET_REGS` (R7, R37, D5). -/
structure ResetRegs where
  a  : Byte
  f  : Byte
  b  : Byte
  c  : Byte
  d  : Byte
  e  : Byte
  h  : Byte
  l  : Byte
  sp : Word
  pc : Word
  deriving DecidableEq, Repr

/-- Everything power-on chooses (R117, R119): `RESET_REGS`, `IO_PRESET` (a finite map, D6), `MEM_INIT` (D7), and the two
parameters a tick reads. It is an argument of `powerOn`, never part of the state. -/
structure PowerOn where
  regs     : ResetRegs
  ioPreset : List (Word × Byte)
  memInit  : Word → Byte
  params   : Params

end Sys2Proof
end

