-- ==== Sys2Proof/Machine/Bits.lean ====
section
/-! DEFINITION. The halves of a 16-bit value and their joining (00_scope.md R8: `v[hi:lo]` and `a ++ b`). -/

namespace Sys2Proof.Machine

/-- `w[15:8]`. -/
def hiByte (w : Word) : Byte := w.extractLsb' 8 8

/-- `w[7:0]`. -/
def loByte (w : Word) : Byte := w.extractLsb' 0 8

/-- `hi ++ lo`, the first argument the high part: "for bytes, `hi ++ lo = (hi << 8) | lo`" (R8). -/
def joinBytes (hi lo : Byte) : Word := hi ++ lo

end Sys2Proof.Machine
end

