-- ==== Sys2Proof/Syntax.lean ====
section
/-! DEFINITION. The instructions: one constructor per row of spec/opcode_table.json (30_encoding.md R62). -/

namespace Sys2Proof

/-- An instruction with its operand bytes assembled (R59, R61). Register operands are fixed by the opcode, so no constructor
carries one (R62, R69). -/
inductive Instr where
  /-- 0x00 NOP (R99). -/
  | nop
  /-- 0x01 LD BC,d16 (R94). -/
  | ldBcD16 (d16 : Word)
  /-- 0x02 LD (BC),A (R95). -/
  | ldBcA
  /-- 0x03 INC BC (R92). -/
  | incBc
  /-- 0x04 INC B (R87). -/
  | incB
  /-- 0x05 DEC B (R88). -/
  | decB
  /-- 0x06 LD B,d8 (R96). -/
  | ldBD8 (d8 : Byte)
  /-- 0x07 RLCA (R89). -/
  | rlca
  /-- 0x08 LD (a16),SP (R97). -/
  | ldA16Sp (a16 : Word)
  deriving DecidableEq, Repr

end Sys2Proof
end

