-- ==== Sys2Proof/Decode.lean ====
section
/-! DEFINITION. The opcode table, the decoder and the encoder (30_encoding.md R59 to R70). -/

namespace Sys2Proof

open Machine (hiByte loByte joinBytes)

/-- The instruction formats: one opcode byte with no operand, with imm8, or with imm16 (R60). -/
inductive Format where
  | f0
  | f1
  | f2
  deriving DecidableEq, Repr

/-- How many operand bytes follow the opcode (R59, R67). -/
def Format.operandLength : Format → Nat
  | .f0 => 0
  | .f1 => 1
  | .f2 => 2

/-- The flag-write mask of an opcode: "A flag whose mask bit is 0 keeps its value" (R67). -/
structure FlagMask where
  z : Bool
  n : Bool
  h : Bool
  c : Bool
  deriving DecidableEq, Repr

/-- The handler identities the decoder delivers to the dispatch mux, one per row, under R67's own names. -/
inductive Handler where
  | nop
  | ld16ImmBc
  | st8IndBcA
  | inc16Bc
  | inc8B
  | dec8B
  | ld8ImmB
  | rlc8A
  | st16AbsSp
  deriving DecidableEq, Repr

/-- Column "opcode" of the opcode table (R62). The bytes 0x02, 0x03, 0x06 and 0x08 are the spec's decision D1 (log 8). -/
def Handler.opcode : Handler → Byte
  | .nop => 0x00
  | .ld16ImmBc => 0x01
  | .st8IndBcA => 0x02
  | .inc16Bc => 0x03
  | .inc8B => 0x04
  | .dec8B => 0x05
  | .ld8ImmB => 0x06
  | .rlc8A => 0x07
  | .st16AbsSp => 0x08

/-- Column "format" of the opcode table (R62). -/
def Handler.format : Handler → Format
  | .nop => .f0
  | .ld16ImmBc => .f2
  | .st8IndBcA => .f0
  | .inc16Bc => .f0
  | .inc8B => .f0
  | .dec8B => .f0
  | .ld8ImmB => .f1
  | .rlc8A => .f0
  | .st16AbsSp => .f2

/-- Column "flag-write mask (Z N H C)" (R67). -/
def Handler.flagMask : Handler → FlagMask
  | .nop => ⟨false, false, false, false⟩
  | .ld16ImmBc => ⟨false, false, false, false⟩
  | .st8IndBcA => ⟨false, false, false, false⟩
  | .inc16Bc => ⟨false, false, false, false⟩
  | .inc8B => ⟨true, true, true, false⟩
  | .dec8B => ⟨true, true, true, false⟩
  | .ld8ImmB => ⟨false, false, false, false⟩
  | .rlc8A => ⟨true, true, true, true⟩
  | .st16AbsSp => ⟨false, false, false, false⟩

/-- Column "cost", in cycle units (R62, R67, R125): 4 and 12 are the source's, the others the parameter `CYCLE_COST`. -/
def Handler.cost (p : Params) : Handler → Nat
  | .nop => 4
  | .ld16ImmBc => 12
  | .st8IndBcA => p.cycleCost.op02.units
  | .inc16Bc => p.cycleCost.op03.units
  | .inc8B => p.cycleCost.op04.units
  | .dec8B => p.cycleCost.op05.units
  | .ld8ImmB => p.cycleCost.op06.units
  | .rlc8A => p.cycleCost.op07.units
  | .st16AbsSp => p.cycleCost.op08.units

/-- The rows of the opcode table: "exactly nine" (R62). -/
def opcodeTable : List Handler :=
  [.nop, .ld16ImmBc, .st8IndBcA, .inc16Bc, .inc8B, .dec8B, .ld8ImmB, .rlc8A, .st16AbsSp]

/-- The decoder's verdict on an opcode byte: "match = the opcode, mask = 0xFF"; a byte in no row has no handler (R63, R65). It
reads no other byte and no state. -/
def decodeOpcode (opcode : Byte) : Option Handler :=
  opcodeTable.find? fun h => (opcode &&& 0xFF) == h.opcode

/-- Why bytes are no instruction. Decoding the bytes of a tick's own fetch gives only `unsupportedOpcode`. -/
inductive DecodeError where
  /-- The opcode byte has no handler (R65). -/
  | unsupportedOpcode (opcode : Byte)
  /-- There is no opcode byte: the list is empty. -/
  | noOpcode
  /-- The list ends before the operand bytes the opcode asks for. -/
  | missingOperand (h : Handler)
  deriving DecidableEq, Repr

/-- Operand assembly: low byte first, nothing extended or scaled (R60, R61). Answers the instruction and the bytes after it. -/
def assemble : Handler → List Byte → Except DecodeError (Instr × List Byte)
  | .nop, rest => .ok (.nop, rest)
  | .ld16ImmBc, lo :: hi :: rest => .ok (.ldBcD16 (joinBytes hi lo), rest)
  | .st8IndBcA, rest => .ok (.ldBcA, rest)
  | .inc16Bc, rest => .ok (.incBc, rest)
  | .inc8B, rest => .ok (.incB, rest)
  | .dec8B, rest => .ok (.decB, rest)
  | .ld8ImmB, d8 :: rest => .ok (.ldBD8 d8, rest)
  | .rlc8A, rest => .ok (.rlca, rest)
  | .st16AbsSp, lo :: hi :: rest => .ok (.ldA16Sp (joinBytes hi lo), rest)
  | .ld16ImmBc, _ => .error (.missingOperand .ld16ImmBc)
  | .ld8ImmB, _ => .error (.missingOperand .ld8ImmB)
  | .st16AbsSp, _ => .error (.missingOperand .st16AbsSp)

/-- The decoder on a list of bytes, total: the instruction at its head and the bytes after it, or the reason there is none. The
opcode byte alone fixes the length (R59), and bytes after an unsupported opcode are not looked at (R66). -/
def decode : List Byte → Except DecodeError (Instr × List Byte)
  | [] => .error .noOpcode
  | opcode :: rest =>
    match decodeOpcode opcode with
    | none => .error (.unsupportedOpcode opcode)
    | some h => assemble h rest

/-- How many operand bytes the opcode asks for; none where it has no handler (R59, R66). -/
def operandLength (opcode : Byte) : Nat :=
  match decodeOpcode opcode with
  | none => 0
  | some h => h.format.operandLength

/-- The row of an instruction. -/
def Instr.handler : Instr → Handler
  | .nop => .nop
  | .ldBcD16 _ => .ld16ImmBc
  | .ldBcA => .st8IndBcA
  | .incBc => .inc16Bc
  | .incB => .inc8B
  | .decB => .dec8B
  | .ldBD8 _ => .ld8ImmB
  | .rlca => .rlc8A
  | .ldA16Sp _ => .st16AbsSp

/-- An instruction's length in bytes, 1, 2 or 3 (R59). -/
def Instr.length (i : Instr) : Nat := 1 + i.handler.format.operandLength

/-- The bytes of an instruction, the one at the lowest address first (R60, R62). -/
def encode : Instr → List Byte
  | .nop => [0x00]
  | .ldBcD16 d16 => [0x01, loByte d16, hiByte d16]
  | .ldBcA => [0x02]
  | .incBc => [0x03]
  | .incB => [0x04]
  | .decB => [0x05]
  | .ldBD8 d8 => [0x06, d8]
  | .rlca => [0x07]
  | .ldA16Sp a16 => [0x08, loByte a16, hiByte a16]

/-- The bytes of an instruction numbered as the opcode table numbers its bits: byte k of the instruction is bits 8k+7 to 8k, the
bits from `nbits` up are zero, and there are as many bytes as the longest instruction has (three, R59). -/
def tableWordBytes (nbits w : Nat) : List Byte :=
  let v := w % 2 ^ nbits
  [BitVec.ofNat 8 v, BitVec.ofNat 8 (v / 256), BitVec.ofNat 8 (v / 65536)]

/-- What the decoder reads from an instruction whose bits are `w` in the opcode table's numbering. -/
def decodeTableWord (nbits w : Nat) : Option Instr :=
  match decode (tableWordBytes nbits w) with
  | .ok (i, _) => some i
  | .error _ => none

end Sys2Proof
end

