-- ==== Sys2Proof/Machine/Names.lean ====
section
/-! DEFINITION. The closed enumerations of registers, pairs and flags, and their selectors as bits (10_state.md R16, R21, R29,
R32; decision D11). -/

namespace Sys2Proof.Machine

/-- The eight 8-bit registers (R16). -/
inductive Reg8 where
  | a | b | c | d | e | f | h | l
  deriving DecidableEq, Repr

/-- A register the register interface names: an 8-bit one, PC or SP (R16, R32). -/
inductive Reg where
  | r8 (r : Reg8)
  | pc
  | sp
  deriving DecidableEq, Repr

/-- The four register pairs (R21). -/
inductive Pair where
  | bc | de | hl | af
  deriving DecidableEq, Repr

/-- The four flags (R29). -/
inductive Flag where
  | z | n | h | c
  deriving DecidableEq, Repr

/-- The high register of a pair (R21). -/
def Pair.hi : Pair → Reg8
  | .bc => .b
  | .de => .d
  | .hl => .h
  | .af => .a

/-- The low register of a pair (R21). -/
def Pair.lo : Pair → Reg8
  | .bc => .c
  | .de => .e
  | .hl => .l
  | .af => .f

/-- Register selectors: A=0, B=1, C=2, D=3, E=4, F=5, H=6, L=7, PC=8, SP=9; "10 to 15 name no register" (R32). -/
def regOfSelector (sel : BitVec 4) : Option Reg :=
  match sel.toNat with
  | 0 => some (.r8 .a)
  | 1 => some (.r8 .b)
  | 2 => some (.r8 .c)
  | 3 => some (.r8 .d)
  | 4 => some (.r8 .e)
  | 5 => some (.r8 .f)
  | 6 => some (.r8 .h)
  | 7 => some (.r8 .l)
  | 8 => some .pc
  | 9 => some .sp
  | _ => none

/-- Pair selectors: BC=0, DE=1, HL=2, AF=3; every value of the two bits names a pair (R32). -/
def pairOfSelector (sel : BitVec 2) : Pair :=
  match sel.toNat with
  | 0 => .bc
  | 1 => .de
  | 2 => .hl
  | _ => .af

/-- Flag selectors: Z=0, N=1, H=2, C=3; every value of the two bits names a flag (R32). -/
def flagOfSelector (sel : BitVec 2) : Flag :=
  match sel.toNat with
  | 0 => .z
  | 1 => .n
  | 2 => .h
  | _ => .c

end Sys2Proof.Machine
end

