-- ==== Sys2Proof/Machine/Defaults.lean ====
section
/-! DEFINITION. The defaults that 92_eei_decisions.md gives the open parameters. Every value here is marked there
"[from general knowledge, not in source]" or is the spec's own decision; assumption logs 1 to 5. -/

namespace Sys2Proof.Machine

/-- PRESUMED (unsafe, log 1). The default `RESET_REGS` (D5): the register values the Game Boy (DMG) boot program leaves. -/
def defaultResetRegs : ResetRegs where
  a := 0x01
  f := 0xB0
  b := 0x00
  c := 0x13
  d := 0x00
  e := 0xD8
  h := 0x01
  l := 0x4D
  sp := 0xFFFE
  pc := 0x0100

/-- The timer's rows of the default `IO_PRESET` (D6). -/
def defaultTimerPreset : List (Word × Byte) :=
  [(0xFF05, 0x00), (0xFF06, 0x00), (0xFF07, 0x00)]

/-- The sound rows of the default `IO_PRESET` (D6). -/
def defaultSoundPreset : List (Word × Byte) :=
  [(0xFF10, 0x80), (0xFF11, 0xBF), (0xFF12, 0xF3), (0xFF14, 0xBF), (0xFF16, 0x3F), (0xFF17, 0x00),
   (0xFF19, 0xBF), (0xFF1A, 0x7F), (0xFF1B, 0xFF), (0xFF1C, 0x9F), (0xFF1E, 0xBF), (0xFF20, 0xFF),
   (0xFF21, 0x00), (0xFF22, 0x00), (0xFF23, 0xBF), (0xFF24, 0x77), (0xFF25, 0xF3), (0xFF26, 0xF1)]

/-- The LCD and palette rows of the default `IO_PRESET`, and the interrupt-enable byte (D6). -/
def defaultLcdPreset : List (Word × Byte) :=
  [(0xFF40, 0x91), (0xFF42, 0x00), (0xFF43, 0x00), (0xFF45, 0x00), (0xFF47, 0xFC), (0xFF48, 0xFF),
   (0xFF49, 0xFF), (0xFF4A, 0x00), (0xFF4B, 0x00), (0xFFFF, 0x00)]

/-- PRESUMED (unsafe, log 2). The default `IO_PRESET`: D6's table, the Game Boy's power-up values. -/
def defaultIoPreset : List (Word × Byte) :=
  defaultTimerPreset ++ defaultSoundPreset ++ defaultLcdPreset

/-- DESIGN CHOICE (unsafe, log 3). The default `MEM_INIT`, "all 0x00" (D7). -/
def defaultMemInit (_ : Word) : Byte := 0x00

/-- PRESUMED (safe in every state, unsafe at reset, log 4). The default `CYCLE_COST` (D2). -/
def defaultCycleCosts : CycleCosts where
  op02 := .eight
  op03 := .eight
  op04 := .four
  op05 := .four
  op06 := .eight
  op07 := .four
  op08 := .twenty

/-- DESIGN CHOICE (safe in every state, unsafe at reset, log 5). The default `CYCLE_COUNTER_WIDTH` is unbounded (D8). -/
def defaultParams : Params where
  cycleCost := defaultCycleCosts
  counterWidth := none

/-- All parameters at their defaults. -/
def defaultPowerOn : PowerOn where
  regs := defaultResetRegs
  ioPreset := defaultIoPreset
  memInit := defaultMemInit
  params := defaultParams

/-- `IO_PRESET(a)`, where `a` is an address of it. -/
def presetByte (table : List (Word × Byte)) (a : Word) : Option Byte :=
  match table with
  | [] => none
  | (k, v) :: rest => if k = a then some v else presetByte rest a

/-- The byte at `a` at construction: `IO_PRESET(a)` if `a` is an address of it, `MEM_INIT(a)` otherwise (R53). -/
def bootByte (p : PowerOn) (a : Word) : Byte :=
  (presetByte p.ioPreset a).getD (p.memInit a)

end Sys2Proof.Machine
end

