-- ==== Sys2Proof/Machine/State.lean ====
section
/-! DEFINITION. The state of one core as plain data, the reasons a tick can stop, and the state after reset (10_state.md R15,
R34, R37). -/

namespace Sys2Proof.Machine

/-- The memory image (R15, R41): the bytes that differ from the default boot image, as (address, byte) pairs, addresses strictly
rising. What an address that is not listed reads as is `Memory.unlisted` (Machine/Ops.lean). -/
abbrev Memory := List Host.Cell

/-- What the fault latch records (R15, R103). -/
inductive FaultRecord where
  /-- "the opcode value and the address at which it was fetched" (R104). -/
  | unsupportedOpcode (opcode : Byte) (address : Word)
  /-- The register selector that names no register (R105). -/
  | invalidRegister (selector : BitVec 4)
  deriving DecidableEq, Repr

/-- The state of one core (R15). `params` is the model's own field: the parameters of R7 that a tick reads, which the spec makes
arguments of the model. No tick and no host call but power-on changes it, and every statement about every state holds for every
value of them (logs 4 and 5). -/
@[ext]
structure State where
  /-- The accumulator. -/
  a      : Byte
  b      : Byte
  c      : Byte
  d      : Byte
  e      : Byte
  /-- The flag register: Z N H C in bits 7 to 4 (R29), bits 3 to 0 hardwired to zero (R18). -/
  f      : Byte
  h      : Byte
  l      : Byte
  /-- Between ticks, the address of the next opcode to fetch (R25). -/
  pc     : Word
  sp     : Word
  mem    : Memory
  /-- The cycle counter, in cycle units (R31). -/
  cycles : Nat
  /-- The fault latch: the first fault of a run (R34). -/
  fault  : Option FaultRecord
  params : Params
  deriving DecidableEq, Repr

/-- Why a tick stops. -/
inductive Fault where
  /-- Raised by a tick whose opcode byte has no handler (R77, R104), by nothing else. It carries the record, opcode and address,
  and the state the tick leaves: PC one past the byte, the latch set, nothing else changed. Safe: the spec ends the run here
  (R127), and no effect of the tick is lost. -/
  | unsupportedOpcode (opcode : Byte) (address : Word) (after : State)
  /-- Answered by a step in a state whose fault latch is set: no tick is admitted, the stored fault is returned, and the state is
  the one it was asked in (R108). Safe: the spec has no transition here. -/
  | latched (stored : FaultRecord)
  deriving DecidableEq, Repr

/-- Why a step refuses. -/
inductive Refusal where
  /-- An instruction of the opcode table that has no meaning yet. Raised by no arm: all nine have their meaning. Safe. -/
  | notModelled (mnemonic : String)
  deriving DecidableEq, Repr

/-- What a meaning answers. -/
abbrev Answer := Host.Outcome State Fault Refusal

/-- The core right after power-on with every parameter at the spec's default (R37, R119). Register values PRESUMED (log 1); memory
as the default `IO_PRESET` and `MEM_INIT` give it (logs 2, 3), so nothing is listed; cycle counter 0; fault latch none. `powerOn`
(Machine/HostPort.lean) is the same construction for every choice of the parameters. -/
def State.reset : State where
  a := defaultResetRegs.a
  b := defaultResetRegs.b
  c := defaultResetRegs.c
  d := defaultResetRegs.d
  e := defaultResetRegs.e
  f := defaultResetRegs.f
  h := defaultResetRegs.h
  l := defaultResetRegs.l
  pc := defaultResetRegs.pc
  sp := defaultResetRegs.sp
  mem := []
  cycles := 0
  fault := none
  params := defaultParams

end Sys2Proof.Machine
end

