-- ==== Sys2Proof/Machine/Ops.lean ====
section
/-! DEFINITION. The named operations over memory, registers, pairs, the cycle counter and the fault latch (10_state.md R16 to R26,
R31, R34; 20_memory.md R41 to R48; 60_exceptions.md R102 to R110). -/

namespace Sys2Proof.Machine

/-- What an address that the list does not hold reads as: the byte of the default boot image (R53). PRESUMED for the `IO_PRESET`
addresses (log 2), DESIGN CHOICE for the rest (log 3), both unsafe. -/
def Memory.unlisted (a : Word) : Byte := bootByte defaultPowerOn a

/-- `readByte(address)`: total, no side effect (R44, R42). -/
def Memory.readByte (m : Memory) (a : Word) : Byte :=
  match m with
  | [] => Memory.unlisted a
  | (k, v) :: rest => if k = a.toNat then v else Memory.readByte rest a

/-- The list without its entries at `a`. -/
def Memory.erase (m : Memory) (a : Word) : Memory :=
  m.filter fun cell => cell.1 != a.toNat

/-- The list with one more entry, before the first higher address. -/
def Memory.place (m : Memory) (a : Word) (v : Byte) : Memory :=
  match m with
  | [] => [(a.toNat, v)]
  | (k, x) :: rest => if a.toNat < k then (a.toNat, v) :: (k, x) :: rest else (k, x) :: Memory.place rest a v

/-- `writeByte(address, value)` (R45), keeping the canonical form: writing what an unlisted address reads as removes the entry. -/
def Memory.writeByte (m : Memory) (a : Word) (v : Byte) : Memory :=
  if v = Memory.unlisted a then m.erase a else (m.erase a).place a v

/-- `readWord(address)`: "low byte at address, high byte at address+1", the address after 0xFFFF being 0x0000 (R47, D4, log 9). -/
def Memory.readWord (m : Memory) (a : Word) : Word :=
  joinBytes (m.readByte (a + 1)) (m.readByte a)

/-- `writeWord(address, value)`: "writes low byte at address, high byte at address+1", with the same wrap (R48, D4, log 9). -/
def Memory.writeWord (m : Memory) (a : Word) (w : Word) : Memory :=
  (m.writeByte a (loByte w)).writeByte (a + 1) (hiByte w)

/-- The canonical form: from an address `low` up, strictly rising, below 65536, no entry equal to what an unlisted address reads
as. -/
def Memory.wfFrom (low : Nat) : Memory → Bool
  | [] => true
  | (k, v) :: rest =>
    decide (low ≤ k) && decide (k < 65536) && (v != Memory.unlisted (BitVec.ofNat 16 k)) && Memory.wfFrom (k + 1) rest

/-- The memory list is in its one canonical form, so that equal memories are equal data. -/
def Memory.wf (m : Memory) : Bool := Memory.wfFrom 0 m

/-- The memory whose byte at every address is given by `f`. -/
def Memory.ofBytes (f : Word → Byte) : Memory :=
  (List.range 65536).filterMap fun k =>
    if f (BitVec.ofNat 16 k) = Memory.unlisted (BitVec.ofNat 16 k) then none else some (k, f (BitVec.ofNat 16 k))

/-- `x[r]` for an 8-bit register (R20). -/
def State.reg8 (s : State) : Reg8 → Byte
  | .a => s.a
  | .b => s.b
  | .c => s.c
  | .d => s.d
  | .e => s.e
  | .f => s.f
  | .h => s.h
  | .l => s.l

/-- `x[r] <- v` for an 8-bit register. "any write to F clears bits 0–3 regardless of requested value" (R17, R18). -/
def State.setReg8 (s : State) (r : Reg8) (v : Byte) : State :=
  match r with
  | .a => { s with a := v }
  | .b => { s with b := v }
  | .c => { s with c := v }
  | .d => { s with d := v }
  | .e => { s with e := v }
  | .f => { s with f := v &&& 0xF0 }
  | .h => { s with h := v }
  | .l => { s with l := v }

/-- `x[PC] <- v` (R19); `pc <- target` (R9). -/
def State.setPc (s : State) (v : Word) : State := { s with pc := v }

/-- `x[SP] <- v` (R19). -/
def State.setSp (s : State) (v : Word) : State := { s with sp := v }

/-- The state with another memory image. -/
def State.setMem (s : State) (m : Memory) : State := { s with mem := m }

/-- PC moved on by `n` bytes, mod 65536 (R25, R75). -/
def State.advancePc (s : State) (n : Nat) : State := s.setPc (s.pc + BitVec.ofNat 16 n)

/-- `pair[p]`: the high register most significant (R22). -/
def State.pair (s : State) (p : Pair) : Word := joinBytes (s.reg8 p.hi) (s.reg8 p.lo)

/-- `pair[p] <- w`: each half through its register's own write, so AF's low byte is masked (R23). -/
def State.setPair (s : State) (p : Pair) (w : Word) : State :=
  (s.setReg8 p.hi (hiByte w)).setReg8 p.lo (loByte w)

/-- `MemWrite(a, 1, v)` (R45). -/
def State.store8 (s : State) (a : Word) (v : Byte) : State := s.setMem (s.mem.writeByte a v)

/-- `MemWrite(a, 2, w)` (R48). -/
def State.store16 (s : State) (a : Word) (w : Word) : State := s.setMem (s.mem.writeWord a w)

/-- A counter value as the counter of that width holds it: itself when unbounded, mod 2^w with a width w (R31). -/
def wrapCounter (width : Option Nat) (n : Nat) : Nat :=
  match width with
  | none => n
  | some w => n % 2 ^ w

/-- `cycles <- cycles + n` (R31, R78). -/
def State.addCycles (s : State) (n : Nat) : State :=
  { s with cycles := wrapCounter s.params.counterWidth (s.cycles + n) }

/-- Fault entry: the record goes into the latch, and nothing else changes; a latch already set is not overwritten (R34, R109). The
one operation by which any fault is taken. -/
def State.latchFault (s : State) (r : FaultRecord) : State :=
  match s.fault with
  | none => { s with fault := some r }
  | some _ => s

/-- The fault codes: 0 none, 1 UnsupportedOpcode, 2 InvalidRegister (R103, D10). -/
def faultCode : Option FaultRecord → BitVec 2
  | none => 0
  | some (.unsupportedOpcode _ _) => 1
  | some (.invalidRegister _) => 2

end Sys2Proof.Machine
end

