-- ==== Sys2Proof/Machine/Flags.lean ====
section
/-! DEFINITION. The flags in F and every flag computation: the three 8-bit ALU operations, and the 16-bit incrementer, which has
none (10_state.md R27 to R29; 41_alu8.md R85, R86; 42_alu16.md R91). -/

namespace Sys2Proof.Machine

/-- The bit of each flag in F (R29; the spec's decision D3, log 7). -/
def Flag.bit : Flag → Nat
  | .z => 7
  | .n => 6
  | .h => 5
  | .c => 4

/-- `flag[f]` (R27). -/
def State.flag (s : State) (g : Flag) : Bool := s.f.getLsbD g.bit

/-- `flag[f] <- b`: "sets or clears that bit, leaving all other F bits untouched" (R28). -/
def State.setFlag (s : State) (g : Flag) (v : Bool) : State :=
  { s with f := if v then s.f ||| (1#8 <<< g.bit) else s.f &&& ~~~(1#8 <<< g.bit) }

/-- What an 8-bit ALU operation yields: the result and a value for each flag it generates; `c` is none where C is "not generated"
(R85). -/
structure AluResult where
  res : Byte
  z   : Bool
  n   : Bool
  h   : Bool
  c   : Option Bool
  deriving DecidableEq, Repr

/-- INC8 (R86): H is the carry out of bit 3. -/
def inc8 (v : Byte) : AluResult where
  res := v + 1
  z := v + 1 == 0
  n := false
  h := decide ((v &&& 0x0F).toNat + 1 > 0x0F)
  c := none

/-- DEC8 (R86): H is set when the operand's low nibble is 0 (90_conflicts.md C2). -/
def dec8 (v : Byte) : AluResult where
  res := v - 1
  z := v - 1 == 0
  n := true
  h := v &&& 0x0F == 0
  c := none

/-- RLC8 (R86): bit 7 moves to bit 0 and to C; Z, N and H are cleared whatever the result. -/
def rlc8 (v : Byte) : AluResult where
  res := (v <<< 1) ||| (v >>> 7)
  z := false
  n := false
  h := false
  c := some (v.getLsbD 7)

/-- INC16 (R91): no flags. -/
def inc16 (v : Word) : Word := v + 1

/-- One generated flag value stored if the mask lets it. -/
def State.storeFlag (s : State) (write : Bool) (g : Flag) (v : Bool) : State :=
  if write then s.setFlag g v else s

/-- The flags of an ALU operation stored under the opcode's flag-write mask: "a flag outside the mask keeps its value" (R85). -/
def State.storeFlags (s : State) (m : FlagMask) (o : AluResult) : State :=
  let t := ((s.storeFlag m.z .z o.z).storeFlag m.n .n o.n).storeFlag m.h .h o.h
  match o.c with
  | none => t
  | some v => t.storeFlag m.c .c v

/-- An 8-bit ALU instruction: the ALU reads the register's old value, then the result is written, then the flags (R90). -/
def State.alu8 (s : State) (r : Reg8) (op : Byte → AluResult) (m : FlagMask) : State :=
  (s.setReg8 r (op (s.reg8 r)).res).storeFlags m (op (s.reg8 r))

end Sys2Proof.Machine
end

