-- ==== Sys2Proof/Machine/HostPort.lean ====
section
/-! DEFINITION. The host: power-on, loading, the register interface and the memory-bus port (10_state.md R37 to R39; 20_memory.md
R44 to R48, R53; 60_exceptions.md R105, R108, R117; 70_reset_and_hazards.md R119, R121). Its calls act between ticks only, whether
or not the fault latch is set, and none clears it. -/

namespace Sys2Proof.Machine

/-- Power-on reset: it constructs the whole state from the parameters (R37, R53, R119). The only reset there is. -/
def powerOn (p : PowerOn) : State where
  a := p.regs.a
  b := p.regs.b
  c := p.regs.c
  d := p.regs.d
  e := p.regs.e
  f := p.regs.f
  h := p.regs.h
  l := p.regs.l
  pc := p.regs.pc
  sp := p.regs.sp
  mem := Memory.ofBytes (bootByte p)
  cycles := 0
  fault := none
  params := p.params

/-- The loader: bytes written at rising addresses (mod 65536) from `a` on; it may overwrite any byte (R121). -/
def State.load (s : State) (a : Word) : List Byte → State
  | [] => s
  | v :: rest => (s.store8 a v).load (a + 1) rest

/-- A call of the register interface (R38) or of the memory-bus port (R44, R45, R47, R48). Registers, pairs and flags are named by
the selectors of R32. A value to write is any integer; the write reduces it (R17, R19, R23, R45, R48; negative ones in two's
complement, D17, log 11). -/
inductive HostOp where
  | readReg (sel : BitVec 4)
  | writeReg (sel : BitVec 4) (v : Int)
  | readPair (sel : BitVec 2)
  | writePair (sel : BitVec 2) (v : Int)
  | readFlag (sel : BitVec 2)
  | writeFlag (sel : BitVec 2) (v : Bool)
  | readCycles
  | readByte (a : Word)
  | writeByte (a : Word) (v : Int)
  | readWord (a : Word)
  | writeWord (a : Word) (v : Int)
  deriving DecidableEq, Repr

/-- What a host call returns. -/
inductive HostAnswer where
  /-- A write returns nothing. -/
  | done
  | byte (v : Byte)
  | word (v : Word)
  | flag (v : Bool)
  | cycles (n : Nat)
  /-- "the call returns `InvalidRegister(selector)`" (R105). -/
  | invalidRegister (sel : BitVec 4)
  deriving DecidableEq, Repr

/-- readReg of a register: u8 for A to L, u16 for PC and SP (R38). -/
def State.readReg (s : State) : Reg → HostAnswer
  | .r8 r => .byte (s.reg8 r)
  | .pc => .word s.pc
  | .sp => .word s.sp

/-- writeReg of a register (R17, R18, R19). -/
def State.writeReg (s : State) (r : Reg) (v : Int) : State :=
  match r with
  | .r8 r => s.setReg8 r (BitVec.ofInt 8 v)
  | .pc => s.setPc (BitVec.ofInt 16 v)
  | .sp => s.setSp (BitVec.ofInt 16 v)

/-- The fault of a selector that names no register: the call returns it, the latch takes it if it was none, and nothing else
changes (R39, R105). -/
def invalidSelector (sel : BitVec 4) (s : State) : HostAnswer × State :=
  (.invalidRegister sel, s.latchFault (.invalidRegister sel))

/-- One host call: what it returns and the state it leaves (R38, R39, R44, R45, R47, R48). -/
def hostCall (op : HostOp) (s : State) : HostAnswer × State :=
  match op with
  | .readReg sel =>
    match regOfSelector sel with
    | some r => (s.readReg r, s)
    | none => invalidSelector sel s
  | .writeReg sel v =>
    match regOfSelector sel with
    | some r => (.done, s.writeReg r v)
    | none => invalidSelector sel s
  | .readPair sel => (.word (s.pair (pairOfSelector sel)), s)
  | .writePair sel v => (.done, s.setPair (pairOfSelector sel) (BitVec.ofInt 16 v))
  | .readFlag sel => (.flag (s.flag (flagOfSelector sel)), s)
  | .writeFlag sel v => (.done, s.setFlag (flagOfSelector sel) v)
  | .readCycles => (.cycles s.cycles, s)
  | .readByte a => (.byte (s.mem.readByte a), s)
  | .writeByte a v => (.done, s.store8 a (BitVec.ofInt 8 v))
  | .readWord a => (.word (s.mem.readWord a), s)
  | .writeWord a v => (.done, s.store16 a (BitVec.ofInt 16 v))

end Sys2Proof.Machine
end

