-- ==== Sys2Proof/Machine/Alu16.lean ====
section
/-! DEFINITION. The 16-bit incrementer's family: INC BC (42_alu16.md R91, R92). -/

namespace Sys2Proof.Machine

/-- INC BC (R92): no flag is written. -/
def execIncBc (s : State) : Answer :=
  .next (s.setPair .bc (inc16 (s.pair .bc)))

end Sys2Proof.Machine
end

