-- ==== Sys2Proof/Machine/Alu8.lean ====
section
/-! DEFINITION. The 8-bit ALU family: INC B, DEC B, RLCA (41_alu8.md R87 to R90). A meaning is the opcode's handler: it is entered
with PC one past the opcode (40_dispatch.md R84), and the tick adds the cost after it (R78). -/

namespace Sys2Proof.Machine

/-- INC B (R87): flags Z 0 H -. -/
def execIncB (s : State) : Answer :=
  .next (s.alu8 .b inc8 Handler.inc8B.flagMask)

/-- DEC B (R88): flags Z 1 H -. -/
def execDecB (s : State) : Answer :=
  .next (s.alu8 .b dec8 Handler.dec8B.flagMask)

/-- RLCA (R89): flags 0 0 0 C. -/
def execRlca (s : State) : Answer :=
  .next (s.alu8 .a rlc8 Handler.rlc8A.flagMask)

end Sys2Proof.Machine
end

