-- ==== Sys2Proof/Machine/Operands.lean ====
section
/-! DEFINITION. Fetching an instruction's bytes, and the addressing modes: immediate, register indirect through BC, absolute
(43_loads.md R93; 40_dispatch.md R74). -/

namespace Sys2Proof.Machine

/-- `fetch8()`: the byte at PC, and PC moved past it (R93). The opcode fetch and the PC advance of a tick are this operation too
(R74, R75). -/
def State.fetch8 (s : State) : Byte × State := (s.mem.readByte s.pc, s.advancePc 1)

/-- `fetch16()`: two byte fetches, low byte first (R93). -/
def State.fetch16 (s : State) : Word × State :=
  let lo := s.fetch8
  let hi := lo.2.fetch8
  (joinBytes hi.1 lo.1, hi.2)

/-- The bytes that `n` byte fetches read, in order. -/
def State.fetchBytes : Nat → State → List Byte
  | 0, _ => []
  | n + 1, s => s.fetch8.1 :: State.fetchBytes n s.fetch8.2

/-- The bytes of the instruction at PC: the opcode, then as many operand bytes as the opcode asks for (R59, R74, R76). After an
unsupported opcode no byte is read (R66). -/
def State.instrBytes (s : State) : List Byte :=
  s.fetch8.1 :: State.fetchBytes (operandLength s.fetch8.1) s.fetch8.2

/-- PC moved past the operand bytes of a format: a handler "must itself advance PC past them" (R76). -/
def State.skipOperands (s : State) (fmt : Format) : State := s.advancePc fmt.operandLength

/-- Register indirect, `(BC)`: the address is the pair BC; no register is modified (R93). -/
def State.indirectBc (s : State) : Word := s.pair .bc

/-- Absolute, `(a16)`: the operand is the address (R61, R93). -/
def absolute (a16 : Word) : Word := a16

end Sys2Proof.Machine
end

