-- ==== Sys2Proof/Machine/Loads.lean ====
section
/-! DEFINITION. Loads and stores: LD BC,d16, LD (BC),A, LD B,d8, LD (a16),SP (43_loads.md R93 to R98). A handler advances PC past
its operand bytes (R76); their values were read before any effect (R58). -/

namespace Sys2Proof.Machine

/-- LD BC,d16 (R94): the old BC is not read. -/
def execLdBcD16 (d16 : Word) (s : State) : Answer :=
  .next ((s.skipOperands .f2).setPair .bc d16)

/-- LD (BC),A (R95): "no PC advance beyond the opcode". -/
def execLdBcA (s : State) : Answer :=
  .next (s.store8 s.indirectBc (s.reg8 .a))

/-- LD B,d8 (R96). -/
def execLdBD8 (d8 : Byte) (s : State) : Answer :=
  .next ((s.skipOperands .f1).setReg8 .b d8)

/-- LD (a16),SP (R97): SP's low byte at a16, its high byte at a16 + 1 mod 65536. -/
def execLdA16Sp (a16 : Word) (s : State) : Answer :=
  .next ((s.skipOperands .f2).store16 (absolute a16) s.sp)

end Sys2Proof.Machine
end

