-- ==== Sys2Proof/Machine/Misc.lean ====
section
/-! DEFINITION. NOP (44_misc.md R99). The core has no control transfer and no system instruction (R100, R101). -/

namespace Sys2Proof.Machine

/-- NOP (R99): "the handler changes no state; the tick has already advanced PC by 1". -/
def execNop (s : State) : Answer := .next s

end Sys2Proof.Machine
end

