-- ==== Sys2Proof/Machine/Dispatch.lean ====
section
/-! DEFINITION. The dispatch mux: it runs the one handler of the decoded opcode (40_dispatch.md R76). -/

namespace Sys2Proof.Machine

/-- The handler of an instruction, on the state in which PC is already one past the opcode byte (R84). -/
def exec (i : Instr) (s : State) : Host.Outcome State Fault Refusal :=
  match i with
  | .nop => Sys2Proof.Machine.execNop s
  | .ldBcD16 d16 => Sys2Proof.Machine.execLdBcD16 d16 s
  | .ldBcA => Sys2Proof.Machine.execLdBcA s
  | .incBc => Sys2Proof.Machine.execIncBc s
  | .incB => Sys2Proof.Machine.execIncB s
  | .decB => Sys2Proof.Machine.execDecB s
  | .ldBD8 d8 => Sys2Proof.Machine.execLdBD8 d8 s
  | .rlca => Sys2Proof.Machine.execRlca s
  | .ldA16Sp a16 => Sys2Proof.Machine.execLdA16Sp a16 s

end Sys2Proof.Machine
end

