-- ==== Sys2Proof/Machine/Tick.lean ====
section
/-! DEFINITION. The tick: fetch, PC advance, decode, dispatch, account, and the fault of a decode miss (40_dispatch.md R73 to
R80). -/

namespace Sys2Proof.Machine

/-- The decode miss (R77, R104): the outcome is the fault with the opcode and its own address, and the state it leaves has PC one
past the opcode and the latch set; the cycle counter does not change. -/
def decodeMiss (s : State) : Answer :=
  .fault (.unsupportedOpcode s.fetch8.1 s.pc (s.fetch8.2.latchFault (.unsupportedOpcode s.fetch8.1 s.pc)))

/-- Step 5 (R78): the opcode's cost is added after its handler completes. A handler that does not complete is not accounted; none
does so (R82). -/
def account (i : Instr) (o : Answer) : Answer :=
  match o with
  | .next t => .next (t.addCycles (i.handler.cost t.params))
  | .fault r => .fault r
  | .refused r => .refused r

/-- One tick (R79). While the fault latch is set no tick is admitted and the stored fault is returned (R108). Any reason the bytes
at PC are no instruction is a decode miss; the operand bytes are fetched, so the only such reason is an opcode with no handler. -/
def tick (s : State) : Answer :=
  match s.fault with
  | some r => .fault (.latched r)
  | none =>
    match decode s.instrBytes with
    | .ok (i, _) => account i (exec i s.fetch8.2)
    | .error _ => decodeMiss s

end Sys2Proof.Machine
end

