-- ==== Sys2Proof/Machine/Step.lean ====
section
/-! DEFINITION. The step, and the placing of an instruction where the step fetches next. -/

namespace Sys2Proof.Machine

/-- One call of the single-step entry point: one tick (R73). -/
def step (s : State) : Host.Outcome State Fault Refusal := tick s

/-- The state with an instruction's bytes loaded at PC, as the loader would place them before a tick (R121; log 13). -/
def State.withFetchWord (s : State) (nbits w : Nat) : State := s.load s.pc (tableWordBytes nbits w)

end Sys2Proof.Machine
end

