-- ==== Sys2Proof/Machine/Bus.lean ====
section
/-! DEFINITION. The bus accesses of one tick in their order (20_memory.md R50, R58; decision D13, log 12). A record of what a tick
does on the bus; the tick itself does not consult it. -/

namespace Sys2Proof.Machine

/-- One byte access of the core. -/
inductive BusAccess where
  | read (a : Word) (v : Byte)
  | write (a : Word) (v : Byte)
  deriving DecidableEq, Repr

/-- Byte reads at rising addresses (mod 65536) from `a` on. -/
def readsFrom (a : Word) : List Byte → List BusAccess
  | [] => []
  | v :: rest => .read a v :: readsFrom (a + 1) rest

/-- The data writes of an instruction, low byte first (R50). -/
def dataWrites (s : State) : Instr → List BusAccess
  | .nop => []
  | .ldBcD16 _ => []
  | .ldBcA => [.write s.indirectBc (s.reg8 .a)]
  | .incBc => []
  | .incB => []
  | .decB => []
  | .ldBD8 _ => []
  | .rlca => []
  | .ldA16Sp a16 => [.write (absolute a16) (loByte s.sp), .write (absolute a16 + 1) (hiByte s.sp)]

/-- The accesses of the tick at a state: the opcode read, the operand reads, the data writes (R58); none where no tick is admitted
(R108), and the opcode read alone on a decode miss (R66, R77). -/
def busAccesses (s : State) : List BusAccess :=
  match s.fault with
  | some _ => []
  | none =>
    match decode s.instrBytes with
    | .ok (i, _) => readsFrom s.pc s.instrBytes ++ dataWrites s i
    | .error _ => readsFrom s.pc s.instrBytes

/-- A memory image after the writes of a list of accesses, in order. -/
def applyAccesses (m : Memory) : List BusAccess → Memory
  | [] => m
  | .read _ _ :: rest => applyAccesses m rest
  | .write a v :: rest => applyAccesses (m.writeByte a v) rest

end Sys2Proof.Machine
end

