-- ==== Sys2Proof/WellFormed.lean ====
section
/-! DEFINITION. What is checked of terms whose type does not already say it. -/

namespace Sys2Proof

/-- Every instruction term is well-formed: operands are "unsigned and unscaled" (R61), and d8, d16 and a16 admit every value of
their width, which the operand's type is. One arm per constructor, so that a constructor added later cannot slip past. -/
def Instr.wellFormed : Instr → Bool
  | .nop => true
  | .ldBcD16 _ => true
  | .ldBcA => true
  | .incBc => true
  | .incB => true
  | .decB => true
  | .ldBD8 _ => true
  | .rlca => true
  | .ldA16Sp _ => true

/-- `RESET_REGS.F` "must have bits 3..0 = 0" (R37). -/
def ResetRegs.wellFormed (r : ResetRegs) : Bool :=
  r.f &&& 0x0F#8 == 0#8

/-- `IO_PRESET` is a finite MAP (D6): no address is listed twice. -/
def ioPresetWellFormed : List (Word × Byte) → Bool
  | [] => true
  | (a, _) :: rest => !(rest.any fun entry => entry.1 == a) && ioPresetWellFormed rest

/-- What R37 and D6 ask of the parameters of power-on. -/
def PowerOn.wellFormed (p : PowerOn) : Bool :=
  p.regs.wellFormed && ioPresetWellFormed p.ioPreset

end Sys2Proof
end

