-- ==== Sys2Proof/Safety.lean ====
section
/-! DEFINITION. What claims are stated in: the invariant of the core, the states it can come to, and what leaves a part of the
state alone. -/

namespace Sys2Proof.Machine

/-- F's low nibble "is architecturally always zero" (R18, R20). -/
def State.fLowZero (s : State) : Prop := s.f &&& 0x0F#8 = 0#8

/-- The cycle counter holds a value of its width (R31). -/
def State.counterFits (s : State) : Prop := ∀ w, s.params.counterWidth = some w → s.cycles < 2 ^ w

/-- The invariant of the core: memory in canonical form, F's low nibble zero, the counter within its width. -/
structure State.Inv (s : State) : Prop where
  memory  : s.mem.wf = true
  fLow    : s.fLowZero
  counter : s.counterFits

/-- The states one core can come to: power-on with any admissible parameters, then ticks and host calls in any order (R117, R119,
R121). A tick that raises a fault leaves a state too. -/
inductive Reachable : State → Prop where
  | powerOn (p : PowerOn) (h : p.wellFormed = true) : Reachable (Machine.powerOn p)
  | hostCall (op : HostOp) (s : State) (h : Reachable s) : Reachable (Machine.hostCall op s).2
  | tick (s t : State) (h : Reachable s) (ht : step s = .next t) : Reachable t
  | fault (s t : State) (opcode : Byte) (address : Word) (h : Reachable s)
      (ht : step s = .fault (.unsupportedOpcode opcode address t)) : Reachable t

/-- Every byte of memory reads as before. -/
def sameMemory (s t : State) : Prop := ∀ a : Word, t.mem.readByte a = s.mem.readByte a

/-- Every byte of memory outside the listed addresses reads as before. -/
def sameMemoryOutside (stored : List Word) (s t : State) : Prop :=
  ∀ a : Word, a ∉ stored → t.mem.readByte a = s.mem.readByte a

/-- The 8-bit registers outside the list are as before. -/
def sameRegs8Outside (written : List Reg8) (s t : State) : Prop :=
  ∀ r : Reg8, r ∉ written → t.reg8 r = s.reg8 r

/-- The cycle counter, the fault latch and the parameters are as before. -/
def sameControl (s t : State) : Prop :=
  t.cycles = s.cycles ∧ t.fault = s.fault ∧ t.params = s.params

end Sys2Proof.Machine
end

