-- ==== Sys2Proof/Certificates/Slice0/Obligations.lean ====
section
/-! DEFINITION. The statements for the provers. Each docstring names the rule or section of spec/ it formalises, and says where a
clause rests on a choice that the spec marks as its own (D<n> of 92_eei_decisions.md) or the model logs. -/

open Sys2Proof Sys2Proof.Machine

/-! ### Encoding -/

/-- Decode and encode agree on every instruction, with every operand at every value, whatever bytes follow (R60, R61, R62). The
opcode bytes 0x02, 0x03, 0x06 and 0x08 are the spec's decision D1 (log 8). -/
def Obligations.DecodeOfEncode : Prop :=
  ∀ (i : Instr) (rest : List Byte), i.wellFormed = true → decode (encode i ++ rest) = .ok (i, rest)

/-- Each byte sequence has one meaning: bytes that decode are that instruction's encoding and what is left over (R60 to R63). -/
def Obligations.EncodeOfDecode : Prop :=
  ∀ (bytes : List Byte) (i : Instr) (rest : List Byte), decode bytes = .ok (i, rest) → bytes = encode i ++ rest

/-- R59: one opcode byte and 0, 1 or 2 operand bytes, so a length of 1, 2 or 3, which the opcode byte alone fixes. -/
def Obligations.OpcodeFixesLength : Prop :=
  ∀ (b : Byte) (bytes : List Byte) (i : Instr) (rest : List Byte), decode (b :: bytes) = .ok (i, rest) →
    bytes.length + 1 = i.length + rest.length ∧ 1 ≤ i.length ∧ i.length ≤ 3 ∧
    ∀ (bytes' : List Byte) (j : Instr) (rest' : List Byte), decode (b :: bytes') = .ok (j, rest') → j.length = i.length

/-- R66: 0xCB is a single-byte opcode with no handler, whatever follows: the tick raises the fault and reads no byte after it. The
length of an instruction follows from its opcode byte alone, and decoding looks at bytes and at nothing else. -/
def Obligations.PrefixByteIsUnsupported : Prop :=
  (∀ rest : List Byte, decode (0xCB :: rest) = .error (.unsupportedOpcode 0xCB)) ∧
  (∀ s : State, s.fault = none → s.mem.readByte s.pc = 0xCB →
    busAccesses s = [.read s.pc 0xCB] ∧ ∃ t, step s = .fault (.unsupportedOpcode 0xCB s.pc t)) ∧
  (∀ (b : Byte) (bytes bytes' : List Byte) (i j : Instr) (rest rest' : List Byte),
    decode (b :: bytes) = .ok (i, rest) → decode (b :: bytes') = .ok (j, rest') → i.handler = j.handler ∧ i.length = j.length)

/-- Sanity: one word of each row, written out from the opcode map (R62) with the operand bytes low byte first (R60, R61).
The opcode bytes 0x02, 0x03, 0x06 and 0x08 are the spec's decision D1 (log 8). -/
def Obligations.WrittenWordsDecode : Prop :=
  decode [0x00] = .ok (.nop, []) ∧
  decode [0x01, 0x34, 0x12] = .ok (.ldBcD16 0x1234, []) ∧
  decode [0x02] = .ok (.ldBcA, []) ∧
  decode [0x03] = .ok (.incBc, []) ∧
  decode [0x04] = .ok (.incB, []) ∧
  decode [0x05] = .ok (.decB, []) ∧
  decode [0x06, 0x7F] = .ok (.ldBD8 0x7F, []) ∧
  decode [0x07] = .ok (.rlca, []) ∧
  decode [0x08, 0x00, 0xC0] = .ok (.ldA16Sp 0xC000, [])

/-! ### Registers, pairs and flags -/

/-- The register interface: reading selectors 0 to 9 answers A, B, C, D, E, F, H, L, PC and SP and changes nothing; writing an
integer to one answers nothing, and reading it back gives the integer mod 256 for A, B, C, D, E, H and L, mod 256 with the low
nibble cleared for F, and mod 65536 for PC and SP; every other register reads as before, and memory, counter and latch stay (R17,
R18, R19, R20, R32, R38). The selectors' numbers are the spec's decision D11 (log 16), negative integers D17 (log 11). -/
def Obligations.RegisterInterfaceWriteRead : Prop :=
  ∀ s : State,
    (hostCall (.readReg 0) s = (.byte s.a, s) ∧ hostCall (.readReg 1) s = (.byte s.b, s) ∧
      hostCall (.readReg 2) s = (.byte s.c, s) ∧ hostCall (.readReg 3) s = (.byte s.d, s) ∧
      hostCall (.readReg 4) s = (.byte s.e, s) ∧ hostCall (.readReg 5) s = (.byte s.f, s) ∧
      hostCall (.readReg 6) s = (.byte s.h, s) ∧ hostCall (.readReg 7) s = (.byte s.l, s) ∧
      hostCall (.readReg 8) s = (.word s.pc, s) ∧ hostCall (.readReg 9) s = (.word s.sp, s)) ∧
    ∀ (sel : BitVec 4) (v : Int), sel.toNat ≤ 9 →
      let t := (hostCall (.writeReg sel v) s).2
      (hostCall (.writeReg sel v) s).1 = .done ∧
      (sel.toNat ≤ 7 → sel ≠ 5 → ∃ n : Byte, (n.toNat : Int) = v % 256 ∧ hostCall (.readReg sel) t = (.byte n, t)) ∧
      (sel = 5 → ∃ n : Byte, (n.toNat : Int) = v % 256 / 16 * 16 ∧ hostCall (.readReg sel) t = (.byte n, t)) ∧
      (8 ≤ sel.toNat → ∃ n : Word, (n.toNat : Int) = v % 65536 ∧ hostCall (.readReg sel) t = (.word n, t)) ∧
      (∀ other : BitVec 4, other ≠ sel → other.toNat ≤ 9 →
        (hostCall (.readReg other) t).1 = (hostCall (.readReg other) s).1) ∧
      sameMemory s t ∧ sameControl s t

/-- R18: a write of v to F stores (v mod 256) & 0xF0, so its bits 3 to 0 are zero whatever was asked for; nothing else changes. -/
def Obligations.FlagRegisterLowNibbleHardwired : Prop :=
  ∀ (s : State) (v : Int),
    ∃ n : Byte, (n.toNat : Int) = v % 256 / 16 * 16 ∧ s.writeReg (.r8 .f) v = { s with f := n } ∧
      (s.writeReg (.r8 .f) v).fLowZero

/-- R19: a write of v to PC or SP stores v mod 65536, and nothing else changes. -/
def Obligations.ProgramCounterAndStackPointerWrap : Prop :=
  ∀ (s : State) (v : Int),
    ∃ n : Word, (n.toNat : Int) = v % 65536 ∧
      s.writeReg .pc v = { s with pc := n } ∧ s.writeReg .sp v = { s with sp := n }

/-- R21, R22 and R24: the four pairs are BC, DE, HL and AF, of the registers B and C, D and E, H and L, A and F. A pair reads as
its two registers, the high one most significant, and has no storage of its own: a write to either register is seen by the next
read of the pair, a write to the pair by the next reads of both registers. F, AF's low register, masks what it is given (R18).
PC and SP are no pairs and no views: neither a pair write nor the write of an 8-bit register changes them. -/
def Obligations.PairsAreViewsOfRegisters : Prop :=
  (∀ p : Pair, p = .bc ∨ p = .de ∨ p = .hl ∨ p = .af) ∧
  (Pair.hi .bc = .b ∧ Pair.lo .bc = .c) ∧ (Pair.hi .de = .d ∧ Pair.lo .de = .e) ∧
  (Pair.hi .hl = .h ∧ Pair.lo .hl = .l) ∧ (Pair.hi .af = .a ∧ Pair.lo .af = .f) ∧
  (∀ s : State,
    (s.pair .bc).toNat = s.b.toNat * 256 + s.c.toNat ∧ (s.pair .de).toNat = s.d.toNat * 256 + s.e.toNat ∧
    (s.pair .hl).toNat = s.h.toNat * 256 + s.l.toNat ∧ (s.pair .af).toNat = s.a.toNat * 256 + s.f.toNat) ∧
  ∀ (s : State) (p : Pair),
    (s.pair p).toNat = (s.reg8 p.hi).toNat * 256 + (s.reg8 p.lo).toNat ∧
    (∀ v : Byte, ((s.setReg8 p.hi v).pair p).toNat = v.toNat * 256 + (s.reg8 p.lo).toNat) ∧
    (∀ v : Byte, ((s.setReg8 p.lo v).pair p).toNat =
      (s.reg8 p.hi).toNat * 256 + (if p = .af then v.toNat / 16 * 16 else v.toNat)) ∧
    (∀ w : Word, ((s.setPair p w).reg8 p.hi).toNat = w.toNat / 256 ∧
      ((s.setPair p w).reg8 p.lo).toNat = (if p = .af then w.toNat % 256 / 16 * 16 else w.toNat % 256) ∧
      (s.setPair p w).pc = s.pc ∧ (s.setPair p w).sp = s.sp) ∧
    (∀ (r : Reg8) (v : Byte), (s.setReg8 r v).pc = s.pc ∧ (s.setReg8 r v).sp = s.sp)

/-- R23: a pair write reduces mod 65536, puts the high byte in the high register and the low byte in the low one, AF's low byte
masked with 0xF0, and writes no other register. With the rule's two consequences. -/
def Obligations.PairWriteSplitsValue : Prop :=
  ∀ (s : State) (p : Pair) (v : Int),
    let t := s.setPair p (BitVec.ofInt 16 v)
    ((t.reg8 p.hi).toNat : Int) = v % 65536 / 256 ∧
    (p ≠ .af → ((t.reg8 p.lo).toNat : Int) = v % 256 ∧ ((t.pair p).toNat : Int) = v % 65536) ∧
    (p = .af → ((t.reg8 p.lo).toNat : Int) = v % 256 / 16 * 16 ∧ (t.pair p).toNat % 16 = 0) ∧
    sameRegs8Outside [p.hi, p.lo] s t ∧ t.pc = s.pc ∧ t.sp = s.sp ∧ sameMemory s t ∧ sameControl s t

/-- R27 and R28: a flag read is the test of one bit of F; a flag write sets or clears that bit and leaves every other bit of F and
all other state as it was, so F's low nibble stays zero. Which bit is which flag's is the spec's decision D3 (log 7). -/
def Obligations.FlagWriteTouchesOneBit : Prop :=
  ∀ (s : State) (g : Flag) (v : Bool),
    let t := s.setFlag g v
    s.flag g = s.f.getLsbD g.bit ∧ t.flag g = v ∧
    (∀ k, k ≠ g.bit → t.f.getLsbD k = s.f.getLsbD k) ∧
    t = { s with f := t.f } ∧ (s.fLowZero → t.fLowZero)

/-- A selector from 10 to 15 names no register: reading or writing it answers InvalidRegister, sets the latch if it was none and
changes nothing else (R39, R105). The selectors' numbers are D11, the latch D9. -/
def Obligations.UndefinedSelectorRaisesInvalidRegister : Prop :=
  ∀ (s : State) (sel : BitVec 4) (v : Int), 10 ≤ sel.toNat →
    hostCall (.readReg sel) s = (.invalidRegister sel, { s with fault := some (s.fault.getD (.invalidRegister sel)) }) ∧
    hostCall (.writeReg sel v) s = (.invalidRegister sel, { s with fault := some (s.fault.getD (.invalidRegister sel)) })

/-- Host calls work whether or not the latch is set, never clear or overwrite it, and set it only for an undefined selector; none
changes the cycle counter or the parameters (R31, R34, R38, R108; decisions D8, D9). -/
def Obligations.HostCallsKeepLatchAndCounter : Prop :=
  ∀ (op : HostOp) (s : State),
    let t := (hostCall op s).2
    t.cycles = s.cycles ∧ t.params = s.params ∧
    (∀ r, s.fault = some r → t.fault = some r) ∧
    (s.fault = none → t.fault = none ∨ ∃ sel, 10 ≤ sel.toNat ∧ (hostCall op s).1 = .invalidRegister sel ∧
      t.fault = some (.invalidRegister sel))

/-! ### Memory -/

/-- R44 and R45 through the bus port: a byte write stores the value mod 256 at its address, and a read, which changes nothing,
returns the byte stored there; every other address and all other state stay. -/
def Obligations.ByteWriteThenRead : Prop :=
  ∀ (s : State) (a : Word) (v : Int),
    let t := (hostCall (.writeByte a v) s).2
    (∃ n : Byte, (n.toNat : Int) = v % 256 ∧ hostCall (.readByte a) t = (.byte n, t)) ∧
    (∀ b, b ≠ a → (hostCall (.readByte b) t).1 = (hostCall (.readByte b) s).1) ∧
    t = { s with mem := t.mem }

/-- A word write reduces mod 65536 and puts the low byte at its address and the high byte at the next, for every address: after
0xFFFF comes 0x0000 (R47, R48; the wrap is the spec's decision D4, log 9). -/
def Obligations.WordWriteThenRead : Prop :=
  ∀ (s : State) (a : Word) (v : Int),
    let t := (hostCall (.writeWord a v) s).2
    (∃ n : Word, (n.toNat : Int) = v % 65536 ∧ (hostCall (.readWord a) t).1 = .word n) ∧
    ((t.mem.readByte a).toNat : Int) = v % 256 ∧ ((t.mem.readByte (a + 1)).toNat : Int) = v % 65536 / 256 ∧
    sameMemoryOutside [a, a + 1] s t ∧ t = { s with mem := t.mem }

/-- Equal memories are equal data: two lists in the canonical form that read alike at every address are the same list. A property
of the model's own representation of the memory image (logs 2, 3). -/
def Obligations.CanonicalMemoryIsUnique : Prop :=
  ∀ m n : Memory, m.wf = true → n.wf = true → (∀ a : Word, m.readByte a = n.readByte a) → m = n

/-! ### Power-on -/

/-- Power-on constructs the whole state from its parameters: registers from RESET_REGS, memory from IO_PRESET where it has the
address and MEM_INIT elsewhere, the cycle counter 0 and the latch none (R37, R53, R119; decisions D5 to D9). -/
def Obligations.PowerOnConstructsState : Prop :=
  ∀ p : PowerOn, p.wellFormed = true →
    let s := powerOn p
    s.a = p.regs.a ∧ s.b = p.regs.b ∧ s.c = p.regs.c ∧ s.d = p.regs.d ∧ s.e = p.regs.e ∧ s.f = p.regs.f ∧
    s.h = p.regs.h ∧ s.l = p.regs.l ∧ s.sp = p.regs.sp ∧ s.pc = p.regs.pc ∧
    (∀ (a : Word) (v : Byte), (a, v) ∈ p.ioPreset → s.mem.readByte a = v) ∧
    (∀ a : Word, (∀ v, (a, v) ∉ p.ioPreset) → s.mem.readByte a = p.memInit a) ∧
    s.cycles = 0 ∧ s.fault = none ∧ s.params = p.params

/-- The state after reset is power-on with every parameter at the default that 92_eei_decisions.md gives it. The defaults are the
spec's general knowledge (D2, D5, D6, D7, D8; logs 1 to 5). -/
def Obligations.ResetIsDefaultPowerOn : Prop :=
  powerOn defaultPowerOn = State.reset

/-- The invariant holds after reset. -/
def Obligations.ResetMeetsTheInvariant : Prop :=
  State.reset.Inv

/-! ### The instructions: results, completion and frames -/

/-- R85 and R86: the three ALU operations, on the value of any 8-bit register but F, under any flag-write mask: the result, mod 256;
each generated flag stored where the mask lets it and kept where it does not; C not generated by INC8 and DEC8; no carry input. -/
def Obligations.AluUnderAnyMask : Prop :=
  ∀ (s : State) (r : Reg8) (m : FlagMask), r ≠ .f →
    let v := (s.reg8 r).toNat
    let inc := s.alu8 r inc8 m
    let dec := s.alu8 r dec8 m
    let rot := s.alu8 r rlc8 m
    ((inc.reg8 r).toNat = (v + 1) % 256 ∧
      inc.flag .z = (if m.z then decide ((v + 1) % 256 = 0) else s.flag .z) ∧
      inc.flag .n = (if m.n then false else s.flag .n) ∧
      inc.flag .h = (if m.h then decide (v % 16 + 1 > 15) else s.flag .h) ∧ inc.flag .c = s.flag .c) ∧
    ((dec.reg8 r).toNat = (v + 255) % 256 ∧
      dec.flag .z = (if m.z then decide ((v + 255) % 256 = 0) else s.flag .z) ∧
      dec.flag .n = (if m.n then true else s.flag .n) ∧
      dec.flag .h = (if m.h then decide (v % 16 = 0) else s.flag .h) ∧ dec.flag .c = s.flag .c) ∧
    ((rot.reg8 r).toNat = v * 2 % 256 + v / 128 ∧
      rot.flag .z = (if m.z then false else s.flag .z) ∧ rot.flag .n = (if m.n then false else s.flag .n) ∧
      rot.flag .h = (if m.h then false else s.flag .h) ∧
      rot.flag .c = (if m.c then decide (128 ≤ v) else s.flag .c))

/-- INC B completes in every state: B + 1 mod 256, Z when the result is 0, N cleared, H the carry out of bit 3, C kept; nothing
else changes in the handler (R86, R87, R90). -/
def Obligations.IncBResultAndFrame : Prop :=
  ∀ s : State, ∃ t, exec .incB s = .next t ∧
    t.b.toNat = (s.b.toNat + 1) % 256 ∧
    (t.flag .z = true ↔ t.b = 0) ∧ t.flag .n = false ∧ (t.flag .h = true ↔ s.b.toNat % 16 + 1 > 15) ∧
    t.flag .c = s.flag .c ∧ t.f.toNat % 16 = s.f.toNat % 16 ∧
    sameRegs8Outside [.b, .f] s t ∧ t.pc = s.pc ∧ t.sp = s.sp ∧ sameMemory s t ∧ sameControl s t

/-- DEC B completes in every state: B - 1 mod 256, Z when the result is 0, N set, H when the operand's low nibble was 0, C kept;
nothing else changes in the handler (R86, R88, R90). -/
def Obligations.DecBResultAndFrame : Prop :=
  ∀ s : State, ∃ t, exec .decB s = .next t ∧
    t.b.toNat = (s.b.toNat + 255) % 256 ∧
    (t.flag .z = true ↔ t.b = 0) ∧ t.flag .n = true ∧ (t.flag .h = true ↔ s.b.toNat % 16 = 0) ∧
    t.flag .c = s.flag .c ∧ t.f.toNat % 16 = s.f.toNat % 16 ∧
    sameRegs8Outside [.b, .f] s t ∧ t.pc = s.pc ∧ t.sp = s.sp ∧ sameMemory s t ∧ sameControl s t

/-- RLCA completes in every state: A rotated left by one, its old bit 7 in bit 0 and in C, Z N H cleared whatever the result;
nothing else changes in the handler (R86, R89, R90). -/
def Obligations.RlcaResultAndFrame : Prop :=
  ∀ s : State, ∃ t, exec .rlca s = .next t ∧
    t.a.toNat = s.a.toNat * 2 % 256 + s.a.toNat / 128 ∧
    (t.flag .c = true ↔ 128 ≤ s.a.toNat) ∧ t.flag .z = false ∧ t.flag .n = false ∧ t.flag .h = false ∧
    t.f.toNat % 16 = s.f.toNat % 16 ∧
    sameRegs8Outside [.a, .f] s t ∧ t.pc = s.pc ∧ t.sp = s.sp ∧ sameMemory s t ∧ sameControl s t

/-- INC BC completes in every state: the incrementer's (BC + 1) mod 65536, high byte in B, low byte in C; no flag is written, F
with every other part of the state staying as it was (R91, and R92's effect). -/
def Obligations.IncBcResultAndFrame : Prop :=
  (∀ v : Word, (inc16 v).toNat = (v.toNat + 1) % 65536) ∧
  ∀ s : State, ∃ t, exec .incBc s = .next t ∧
    t.b.toNat * 256 + t.c.toNat = (s.b.toNat * 256 + s.c.toNat + 1) % 65536 ∧
    sameRegs8Outside [.b, .c] s t ∧ t.f = s.f ∧ t.pc = s.pc ∧ t.sp = s.sp ∧ sameMemory s t ∧ sameControl s t

/-- LD BC,d16 completes in every state for every d16: B its high byte, C its low byte, PC past the two operand bytes; no flag and
nothing else changes in the handler (R94; the wrap of PC is R19's). -/
def Obligations.LdBcD16ResultAndFrame : Prop :=
  ∀ (d16 : Word) (s : State), ∃ t, exec (.ldBcD16 d16) s = .next t ∧
    t.b.toNat = d16.toNat / 256 ∧ t.c.toNat = d16.toNat % 256 ∧ t.pc.toNat = (s.pc.toNat + 2) % 65536 ∧
    sameRegs8Outside [.b, .c] s t ∧ t.sp = s.sp ∧ sameMemory s t ∧ sameControl s t

/-- LD (BC),A completes in every state: the byte that the pair BC addresses becomes A; every other byte, every register and PC stay
as they were in the handler (R95). The address is `s.indirectBc`, the function the meaning uses. -/
def Obligations.LdBcAStoresAndFrame : Prop :=
  ∀ s : State, ∃ t, exec .ldBcA s = .next t ∧
    s.indirectBc.toNat = s.b.toNat * 256 + s.c.toNat ∧
    t.mem.readByte s.indirectBc = s.a ∧ sameMemoryOutside [s.indirectBc] s t ∧
    sameRegs8Outside [] s t ∧ t.pc = s.pc ∧ t.sp = s.sp ∧ sameControl s t

/-- LD B,d8 completes in every state for every d8: B becomes d8, PC moves past the operand byte; nothing else changes in the
handler, C and F included (R96). -/
def Obligations.LdBD8ResultAndFrame : Prop :=
  ∀ (d8 : Byte) (s : State), ∃ t, exec (.ldBD8 d8) s = .next t ∧
    t.b = d8 ∧ (t.pair .bc).toNat = d8.toNat * 256 + s.c.toNat ∧ t.pc.toNat = (s.pc.toNat + 1) % 65536 ∧
    sameRegs8Outside [.b] s t ∧ t.sp = s.sp ∧ sameMemory s t ∧ sameControl s t

/-- LD (a16),SP completes in every state for every a16: SP's low byte at a16, its high byte at a16 + 1, which is 0x0000 for a16 =
0xFFFF (D4, log 9); every other byte and every register stay; PC moves past the two operand bytes (R97). The address is
`absolute a16`, the function the meaning uses. -/
def Obligations.LdA16SpStoresAndFrame : Prop :=
  ∀ (a16 : Word) (s : State), ∃ t, exec (.ldA16Sp a16) s = .next t ∧
    (t.mem.readByte (absolute a16)).toNat = s.sp.toNat % 256 ∧
    (t.mem.readByte (absolute a16 + 1)).toNat = s.sp.toNat / 256 ∧
    sameMemoryOutside [absolute a16, absolute a16 + 1] s t ∧
    sameRegs8Outside [] s t ∧ t.pc.toNat = (s.pc.toNat + 2) % 65536 ∧ t.sp = s.sp ∧ sameControl s t

/-- R99: NOP is the byte 0x00; its handler changes no state; after n ticks each executing it the cycle counter has grown by
exactly 4n and PC by n mod 65536, and nothing else has changed. With n = 65536 over a memory of zeros PC is back where it was.
Where the counter has a width w the sum is mod 2^w: that clause is R31's, whose width is the spec's decision D8 (log 5). -/
def Obligations.NopRunAddsFourPerTick : Prop :=
  encode .nop = [0x00] ∧ (∀ s : State, exec .nop s = .next s) ∧
  ∀ (n : Nat) (s : State), s.fault = none → (∀ k, k < n → s.mem.readByte (s.pc + BitVec.ofNat 16 k) = 0x00) →
    ∃ c, Host.Core.run core n s = .next { s with pc := s.pc + BitVec.ofNat 16 n, cycles := c } ∧
      (s.params.counterWidth = none → c = s.cycles + 4 * n) ∧
      (∀ w, s.params.counterWidth = some w → s.cycles < 2 ^ w → c = (s.cycles + 4 * n) % 2 ^ w)

/-! ### The tick -/

/-- A step runs the decoded instruction: with the latch none, when the bytes at PC decode to a well-formed instruction, the step is
that instruction's handler entered with PC one past the opcode, and then its cost added to the cycle counter (R74 to R79, R84). -/
def Obligations.StepRunsDecodedInstruction : Prop :=
  ∀ (s : State) (i : Instr) (rest : List Byte), s.fault = none →
    decode [s.mem.readByte s.pc, s.mem.readByte (s.pc + 1), s.mem.readByte (s.pc + 2)] = .ok (i, rest) →
    i.wellFormed = true →
    step s = match exec i { s with pc := s.pc + 1 } with
      | .next t => .next { t with cycles := wrapCounter t.params.counterWidth (t.cycles + i.handler.cost t.params) }
      | .fault r => .fault r
      | .refused r => .refused r

/-- R65 and R104: a tick raises UnsupportedOpcode exactly when the byte at PC is one of the 247 values 0x09 to 0xFF; it records
the byte and its own address; PC is one past it, the latch holds the record, and every other part of the state is unchanged. No
handler raises a fault. -/
def Obligations.UnsupportedOpcodeExactly : Prop :=
  (∀ (s : State) (opcode : Byte) (address : Word) (t : State),
    step s = .fault (.unsupportedOpcode opcode address t) ↔
      s.fault = none ∧ opcode = s.mem.readByte s.pc ∧ 9 ≤ opcode.toNat ∧ address = s.pc ∧
      t = { s with pc := s.pc + 1, fault := some (.unsupportedOpcode opcode address) }) ∧
  (∀ (i : Instr) (s : State) (r : Fault), exec i s ≠ .fault r)

/-- While the latch is set no tick is admitted: every step, and so every run of at least one, returns the stored fault (R108; the
latch is the spec's decision D9, log 10). -/
def Obligations.LatchedFaultAdmitsNoTick : Prop :=
  ∀ (s : State) (r : FaultRecord), s.fault = some r →
    step s = .fault (.latched r) ∧ ∀ n, Host.Core.run core (n + 1) s = .fault (.latched r)

/-- R100: PC changes only by the sequential advance. From any state with the latch none, either the bytes at PC are an instruction
and the tick completes with PC moved on by exactly its length, mod 65536, or the opcode is unsupported and the tick ends the run
with a fault. -/
def Obligations.ControlIsSequential : Prop :=
  ∀ s : State, s.fault = none →
    (∃ (i : Instr) (t : State), decode s.instrBytes = .ok (i, []) ∧ step s = .next t ∧
      t.pc.toNat = (s.pc.toNat + i.length) % 65536) ∨
    (∃ t, 9 ≤ (s.mem.readByte s.pc).toNat ∧ step s = .fault (.unsupportedOpcode (s.mem.readByte s.pc) s.pc t))

/-- Handlers cannot fault: a tick whose opcode is one of the nine completes, adds the row's cost, keeps the latch none and keeps
the parameters; and no step is ever refused (R78, R82, R83). The costs of 0x02 to 0x08 are the parameter CYCLE_COST (log 4). -/
def Obligations.SupportedOpcodeCompletes : Prop :=
  (∀ s : State, s.fault = none → (s.mem.readByte s.pc).toNat ≤ 8 →
    ∃ h t, decodeOpcode (s.mem.readByte s.pc) = some h ∧ step s = .next t ∧
      t.cycles = wrapCounter s.params.counterWidth (s.cycles + h.cost s.params) ∧ t.fault = none ∧ t.params = s.params) ∧
  (∀ (s : State) (r : Refusal), step s ≠ .refused r)

/-- The operand fetch of a tick (R59, R61, R74, R76, R93). One byte fetch reads the byte at PC and moves PC past it, and changes
nothing else; n of them read the n bytes from PC on, mod 65536; the bytes a tick decodes are the opcode at PC and as many bytes
after it as the opcode asks for. The operand that the decoder hands to a handler is what `fetch8` or `fetch16` reads with PC one
past the opcode, for 16 bits the little-endian word read there, wrap included (D4, log 9), and the handler moves PC past the
operand just as they do. The opcode bytes 0x06 and 0x08 are the spec's decision D1 (log 8); that the tick reads the operand and
the handler then advances is log 15. -/
def Obligations.OperandFetchIsWordRead : Prop :=
  ∀ s : State,
    s.fetch8 = (s.mem.readByte s.pc, { s with pc := s.pc + 1 }) ∧
    (∀ n : Nat, s.fetchBytes n = (List.range n).map (fun k => s.mem.readByte (s.pc + BitVec.ofNat 16 k))) ∧
    s.instrBytes = s.mem.readByte s.pc ::
      (List.range (operandLength (s.mem.readByte s.pc))).map (fun k => s.mem.readByte (s.pc + 1 + BitVec.ofNat 16 k)) ∧
    (∀ fmt : Format, s.skipOperands fmt = { s with pc := s.pc + BitVec.ofNat 16 fmt.operandLength }) ∧
    s.fetch16 = (s.mem.readWord s.pc, { s with pc := s.pc + 2 }) ∧
    (s.mem.readWord s.pc).toNat = (s.mem.readByte s.pc).toNat + 256 * (s.mem.readByte (s.pc + 1)).toNat ∧
    let o : State := { s with pc := s.pc + 1 }
    (s.mem.readByte s.pc = 0x06 →
      decode s.instrBytes = .ok (.ldBD8 o.fetch8.1, []) ∧ o.skipOperands (Instr.ldBD8 o.fetch8.1).handler.format = o.fetch8.2) ∧
    (s.mem.readByte s.pc = 0x01 →
      decode s.instrBytes = .ok (.ldBcD16 o.fetch16.1, []) ∧
      o.skipOperands (Instr.ldBcD16 o.fetch16.1).handler.format = o.fetch16.2) ∧
    (s.mem.readByte s.pc = 0x08 →
      decode s.instrBytes = .ok (.ldA16Sp o.fetch16.1, []) ∧
      o.skipOperands (Instr.ldA16Sp o.fetch16.1).handler.format = o.fetch16.2)

/-- A whole tick of LD BC,d16 in the words of its rule: the word at PC + 1 goes to BC, PC moves by 3, the counter by 12; the
operand is read across the top of the address space too (R94; decision D4). -/
def Obligations.LdBcD16Tick : Prop :=
  ∀ s : State, s.fault = none → s.mem.readByte s.pc = 0x01 →
    ∃ t, step s = .next t ∧ t.c = s.mem.readByte (s.pc + 1) ∧ t.b = s.mem.readByte (s.pc + 2) ∧
      t.pair .bc = s.mem.readWord (s.pc + 1) ∧ t.pc = s.pc + 3 ∧
      t = { s with b := t.b, c := t.c, pc := t.pc, cycles := wrapCounter s.params.counterWidth (s.cycles + 12) }

/-- A whole tick of LD (a16),SP: the operand bytes are read before the store, so the store goes where they said even when it
overwrites the instruction itself; only later fetches see the change (R58, R97; decisions D4, D13). The opcode byte 0x08 is
the spec's decision D1 (log 8). -/
def Obligations.LdA16SpReadsOperandBeforeStore : Prop :=
  ∀ s : State, s.fault = none → s.mem.readByte s.pc = 0x08 →
    ∃ t, step s = .next t ∧ t.mem.readWord (s.mem.readWord (s.pc + 1)) = s.sp ∧
      sameMemoryOutside [s.mem.readWord (s.pc + 1), s.mem.readWord (s.pc + 1) + 1] s t ∧
      t = { s with mem := t.mem, pc := s.pc + 3, cycles := wrapCounter s.params.counterWidth (s.cycles + s.params.cycleCost.op08.units) }

/-- A store is seen by the very next fetch: LD (BC),A with BC the address after it makes A the next opcode; if A is no opcode, the
next tick faults with A at that address (R57, R95). The opcode byte 0x02 is the spec's decision D1 (log 8). -/
def Obligations.StoreIsSeenByNextFetch : Prop :=
  ∀ s : State, s.fault = none → s.mem.readByte s.pc = 0x02 → s.pair .bc = s.pc + 1 →
    ∃ t, step s = .next t ∧ t.pc = s.pc + 1 ∧ t.mem.readByte t.pc = s.a ∧
      (9 ≤ s.a.toNat → ∃ u, step t = .fault (.unsupportedOpcode s.a t.pc u)) ∧
      (s.a.toNat ≤ 8 → ∃ u, step t = .next u)

/-- The bus accesses of a tick that completes: reads of the opcode and then of the operand bytes at rising addresses, then the data
writes; and memory after the tick is memory before it with those writes applied in their order (R50, R58; decision D13, log 12). -/
def Obligations.BusAccessOrder : Prop :=
  ∀ (s t : State) (i : Instr), decode s.instrBytes = .ok (i, []) → step s = .next t →
    (busAccesses s).take i.length =
      (List.range i.length).map (fun k => .read (s.pc + BitVec.ofNat 16 k) (s.mem.readByte (s.pc + BitVec.ofNat 16 k))) ∧
    (∀ x ∈ (busAccesses s).drop i.length, ∃ a v, x = .write a v) ∧
    t.mem = applyAccesses s.mem (busAccesses s)

/-! ### Whole-machine rules -/

/-- The invariant is kept by every tick, the one that faults included: memory stays in its canonical form, F's low nibble stays
zero (R18, R28), the counter stays within its width (R31). -/
def Obligations.EveryStepKeepsTheInvariant : Prop :=
  ∀ s : State, s.Inv →
    (∀ t, step s = .next t → t.Inv) ∧
    (∀ opcode address t, step s = .fault (.unsupportedOpcode opcode address t) → t.Inv)

/-- The invariant is kept by every host call (R17, R18, R23, R28, R45, R48). -/
def Obligations.EveryHostCallKeepsTheInvariant : Prop :=
  ∀ (op : HostOp) (s : State), s.Inv → (hostCall op s).2.Inv

/-- Every state that one core can come to, from power-on with any admissible parameters through ticks and host calls in any order,
meets the invariant (R18, R20, R31, R117, R119). -/
def Obligations.ReachableStatesMeetTheInvariant : Prop :=
  ∀ s : State, Reachable s → s.Inv

/-- No instruction writes SP, D, E, H or L; the parameters never change and a completed tick leaves the latch none (R26, R36). -/
def Obligations.UntouchedRegistersStay : Prop :=
  ∀ s t : State, step s = .next t →
    t.sp = s.sp ∧ t.d = s.d ∧ t.e = s.e ∧ t.h = s.h ∧ t.l = s.l ∧ t.params = s.params ∧ t.fault = none

/-- A flag whose mask bit is 0 in the opcode's row keeps its value over the tick (R67, R85), and the four low bits of F too. -/
def Obligations.FlagOutsideTheMaskIsKept : Prop :=
  ∀ (s t : State) (h : Handler), step s = .next t → decodeOpcode (s.mem.readByte s.pc) = some h →
    (h.flagMask.z = false → t.flag .z = s.flag .z) ∧ (h.flagMask.n = false → t.flag .n = s.flag .n) ∧
    (h.flagMask.h = false → t.flag .h = s.flag .h) ∧ (h.flagMask.c = false → t.flag .c = s.flag .c) ∧
    t.f.toNat % 16 = s.f.toNat % 16

/-- The store instructions write no register but PC, and every other instruction leaves memory as it is (R98). The store
opcodes' bytes 0x02 and 0x08 are the spec's decision D1 (log 8). -/
def Obligations.StoresWriteNoRegisterAndOthersNoMemory : Prop :=
  ∀ s t : State, step s = .next t →
    ((s.mem.readByte s.pc = 0x02 ∨ s.mem.readByte s.pc = 0x08) → sameRegs8Outside [] s t ∧ t.sp = s.sp) ∧
    (s.mem.readByte s.pc ≠ 0x02 → s.mem.readByte s.pc ≠ 0x08 → t.mem = s.mem)

/-- No instruction reads a flag: with another F the same tick does the same to everything but F, and faults alike (R30). -/
def Obligations.FlagsAreNeverRead : Prop :=
  ∀ (s : State) (f : Byte),
    (∀ t, step s = .next t → ∃ g : Byte, step { s with f := f } = .next { t with f := g }) ∧
    (∀ opcode address t, step s = .fault (.unsupportedOpcode opcode address t) →
      step { s with f := f } = .fault (.unsupportedOpcode opcode address { t with f := f }))

/-- No instruction reads D, E, H or L: with other values in them the same tick does the same and leaves them as they are (R36). -/
def Obligations.UnusedRegistersAreNeverRead : Prop :=
  ∀ (s t : State) (d e h l : Byte), step s = .next t →
    step { s with d := d, e := e, h := h, l := l } = .next { t with d := d, e := e, h := h, l := l }

/-- No instruction reads the cycle counter, and a completed tick adds to it one of the costs 4, 8, 12 and 20, whatever it held
(R31, R78, R81). -/
def Obligations.CycleCounterIsOnlyAddedTo : Prop :=
  ∀ s t : State, step s = .next t → ∃ n ∈ [4, 8, 12, 20],
    ∀ c : Nat, step { s with cycles := c } = .next { t with cycles := wrapCounter s.params.counterWidth (c + n) }

/-- Over a run of n completed ticks an unbounded counter grows by at least 4n and at most 20n, so it is monotonic (R31, R81), and
PC moves on by some number of bytes between n and 3n, mod 65536 (R68, R83). -/
def Obligations.RunBoundsCounterAndProgramCounter : Prop :=
  ∀ (n : Nat) (s t : State), Host.Core.run core n s = .next t →
    (s.params.counterWidth = none → s.cycles + 4 * n ≤ t.cycles ∧ t.cycles ≤ s.cycles + 20 * n) ∧
    (∃ k, n ≤ k ∧ k ≤ 3 * n ∧ t.pc.toNat = (s.pc.toNat + k) % 65536)

/-- R109: a run that ends by fault ends precisely: every earlier tick is complete, and the faulting one has applied only its fetch
and PC advance and put the record in the latch. The faulting byte is still there and is no opcode, and no tick is admitted any
more (R108, R127; the latch is the spec's decision D9, log 10). -/
def Obligations.FaultEndsTheRunPrecisely : Prop :=
  ∀ (n : Nat) (s t : State) (opcode : Byte) (address : Word),
    Host.Core.run core n s = .fault (.unsupportedOpcode opcode address t) →
    t.pc = address + 1 ∧ t.mem.readByte address = opcode ∧ 9 ≤ opcode.toNat ∧
    t.fault = some (.unsupportedOpcode opcode address) ∧ step t = .fault (.latched (.unsupportedOpcode opcode address)) ∧
    ∃ (m : Nat) (u : State), m < n ∧ Host.Core.run core m s = .next u ∧ u.pc = address ∧
      t = { u with pc := address + 1, fault := some (.unsupportedOpcode opcode address) }

/-! ### The pairs and flags through the register interface -/

/-- The pair half of the register interface (R38, with R21, R22 and R23): selectors 0 to 3 are BC, DE, HL and AF. Reading one answers
high * 256 + low of its two registers and changes nothing; writing v puts v mod 65536 into them, high byte and low byte, F's low
nibble cleared, answers nothing and changes nothing else, whether or not the latch is set. The selectors' numbers are the spec's
decision D11 (log 16), negative integers D17 (log 11). -/
def Obligations.PairInterfaceReadWrite : Prop :=
  ∀ s : State,
    (∃ bc de hl af : Word,
      bc.toNat = s.b.toNat * 256 + s.c.toNat ∧ de.toNat = s.d.toNat * 256 + s.e.toNat ∧
      hl.toNat = s.h.toNat * 256 + s.l.toNat ∧ af.toNat = s.a.toNat * 256 + s.f.toNat ∧
      hostCall (.readPair 0) s = (.word bc, s) ∧ hostCall (.readPair 1) s = (.word de, s) ∧
      hostCall (.readPair 2) s = (.word hl, s) ∧ hostCall (.readPair 3) s = (.word af, s)) ∧
    ∀ v : Int, ∃ hi lo masked : Byte,
      (hi.toNat : Int) = v % 65536 / 256 ∧ (lo.toNat : Int) = v % 256 ∧ (masked.toNat : Int) = v % 256 / 16 * 16 ∧
      hostCall (.writePair 0 v) s = (.done, { s with b := hi, c := lo }) ∧
      hostCall (.writePair 1 v) s = (.done, { s with d := hi, e := lo }) ∧
      hostCall (.writePair 2 v) s = (.done, { s with h := hi, l := lo }) ∧
      hostCall (.writePair 3 v) s = (.done, { s with a := hi, f := masked })

/-- The flag half of the register interface, and the cycle counter's read (R38, with R27, R28 and R31): selectors 0 to 3 are Z, N, H
and C, which are bits 7, 6, 5 and 4 of F. Reading one answers that bit and changes nothing; writing one answers nothing, makes that
bit the value written, and leaves every other bit of F and all other state, whether or not the latch is set. The selectors' numbers
are the spec's decision D11 (log 16), the bits D3 (log 7). -/
def Obligations.FlagAndCycleInterfaceReadWrite : Prop :=
  ∀ s : State,
    (hostCall (.readFlag 0) s = (.flag (s.f.getLsbD 7), s) ∧ hostCall (.readFlag 1) s = (.flag (s.f.getLsbD 6), s) ∧
      hostCall (.readFlag 2) s = (.flag (s.f.getLsbD 5), s) ∧ hostCall (.readFlag 3) s = (.flag (s.f.getLsbD 4), s)) ∧
    (∀ (sel : BitVec 2) (v : Bool), ∃ g : Byte, hostCall (.writeFlag sel v) s = (.done, { s with f := g }) ∧
      ∀ k : Nat, g.getLsbD k = if k = 7 - sel.toNat then v else s.f.getLsbD k) ∧
    hostCall .readCycles s = (.cycles s.cycles, s)

/-- Z, N, H and C have the weights 128, 64, 32 and 16 in F: a read tests that bit, and a write adds or removes that weight and keeps
the rest; where F's low nibble is zero, F is the sum of the weights of the flags that are set (R27, R28, R29). The bits are the
spec's decision D3, "from general knowledge, not in source" (log 7, PRESUMED). -/
def Obligations.FlagsAreTheHighNibbleOfF : Prop :=
  ∀ s : State,
    (s.flag .z = decide (128 ≤ s.f.toNat) ∧ s.flag .n = decide (64 ≤ s.f.toNat % 128) ∧
      s.flag .h = decide (32 ≤ s.f.toNat % 64) ∧ s.flag .c = decide (16 ≤ s.f.toNat % 32)) ∧
    (∀ v : Bool,
      (s.setFlag .z v).f.toNat = v.toNat * 128 + s.f.toNat % 128 ∧
      (s.setFlag .n v).f.toNat = s.f.toNat / 128 * 128 + v.toNat * 64 + s.f.toNat % 64 ∧
      (s.setFlag .h v).f.toNat = s.f.toNat / 64 * 64 + v.toNat * 32 + s.f.toNat % 32 ∧
      (s.setFlag .c v).f.toNat = s.f.toNat / 32 * 32 + v.toNat * 16 + s.f.toNat % 16) ∧
    (s.fLowZero → s.f.toNat =
      (s.flag .z).toNat * 128 + (s.flag .n).toNat * 64 + (s.flag .h).toNat * 32 + (s.flag .c).toNat * 16)
end

