-- ==== Sys2Proof/Laws/State.lean ====
section
/-! SUPPORT. One lemma per field per update of State, each true by unfolding the update once, so that no later proof unfolds a
record update. -/

namespace Sys2Proof.Machine

variable (s : State)

/-! ### An 8-bit register written -/

@[simp] theorem State.setReg8_a_a (v : Byte) : (s.setReg8 .a v).a = v := rfl
@[simp] theorem State.setReg8_a_b (v : Byte) : (s.setReg8 .a v).b = s.b := rfl
@[simp] theorem State.setReg8_a_c (v : Byte) : (s.setReg8 .a v).c = s.c := rfl
@[simp] theorem State.setReg8_a_d (v : Byte) : (s.setReg8 .a v).d = s.d := rfl
@[simp] theorem State.setReg8_a_e (v : Byte) : (s.setReg8 .a v).e = s.e := rfl
@[simp] theorem State.setReg8_a_f (v : Byte) : (s.setReg8 .a v).f = s.f := rfl
@[simp] theorem State.setReg8_a_h (v : Byte) : (s.setReg8 .a v).h = s.h := rfl
@[simp] theorem State.setReg8_a_l (v : Byte) : (s.setReg8 .a v).l = s.l := rfl
@[simp] theorem State.setReg8_a_pc (v : Byte) : (s.setReg8 .a v).pc = s.pc := rfl
@[simp] theorem State.setReg8_a_sp (v : Byte) : (s.setReg8 .a v).sp = s.sp := rfl
@[simp] theorem State.setReg8_a_mem (v : Byte) : (s.setReg8 .a v).mem = s.mem := rfl
@[simp] theorem State.setReg8_a_cycles (v : Byte) : (s.setReg8 .a v).cycles = s.cycles := rfl
@[simp] theorem State.setReg8_a_fault (v : Byte) : (s.setReg8 .a v).fault = s.fault := rfl
@[simp] theorem State.setReg8_a_params (v : Byte) : (s.setReg8 .a v).params = s.params := rfl
@[simp] theorem State.setReg8_b_a (v : Byte) : (s.setReg8 .b v).a = s.a := rfl
@[simp] theorem State.setReg8_b_b (v : Byte) : (s.setReg8 .b v).b = v := rfl
@[simp] theorem State.setReg8_b_c (v : Byte) : (s.setReg8 .b v).c = s.c := rfl
@[simp] theorem State.setReg8_b_d (v : Byte) : (s.setReg8 .b v).d = s.d := rfl
@[simp] theorem State.setReg8_b_e (v : Byte) : (s.setReg8 .b v).e = s.e := rfl
@[simp] theorem State.setReg8_b_f (v : Byte) : (s.setReg8 .b v).f = s.f := rfl
@[simp] theorem State.setReg8_b_h (v : Byte) : (s.setReg8 .b v).h = s.h := rfl
@[simp] theorem State.setReg8_b_l (v : Byte) : (s.setReg8 .b v).l = s.l := rfl
@[simp] theorem State.setReg8_b_pc (v : Byte) : (s.setReg8 .b v).pc = s.pc := rfl
@[simp] theorem State.setReg8_b_sp (v : Byte) : (s.setReg8 .b v).sp = s.sp := rfl
@[simp] theorem State.setReg8_b_mem (v : Byte) : (s.setReg8 .b v).mem = s.mem := rfl
@[simp] theorem State.setReg8_b_cycles (v : Byte) : (s.setReg8 .b v).cycles = s.cycles := rfl
@[simp] theorem State.setReg8_b_fault (v : Byte) : (s.setReg8 .b v).fault = s.fault := rfl
@[simp] theorem State.setReg8_b_params (v : Byte) : (s.setReg8 .b v).params = s.params := rfl
@[simp] theorem State.setReg8_c_a (v : Byte) : (s.setReg8 .c v).a = s.a := rfl
@[simp] theorem State.setReg8_c_b (v : Byte) : (s.setReg8 .c v).b = s.b := rfl
@[simp] theorem State.setReg8_c_c (v : Byte) : (s.setReg8 .c v).c = v := rfl
@[simp] theorem State.setReg8_c_d (v : Byte) : (s.setReg8 .c v).d = s.d := rfl
@[simp] theorem State.setReg8_c_e (v : Byte) : (s.setReg8 .c v).e = s.e := rfl
@[simp] theorem State.setReg8_c_f (v : Byte) : (s.setReg8 .c v).f = s.f := rfl
@[simp] theorem State.setReg8_c_h (v : Byte) : (s.setReg8 .c v).h = s.h := rfl
@[simp] theorem State.setReg8_c_l (v : Byte) : (s.setReg8 .c v).l = s.l := rfl
@[simp] theorem State.setReg8_c_pc (v : Byte) : (s.setReg8 .c v).pc = s.pc := rfl
@[simp] theorem State.setReg8_c_sp (v : Byte) : (s.setReg8 .c v).sp = s.sp := rfl
@[simp] theorem State.setReg8_c_mem (v : Byte) : (s.setReg8 .c v).mem = s.mem := rfl
@[simp] theorem State.setReg8_c_cycles (v : Byte) : (s.setReg8 .c v).cycles = s.cycles := rfl
@[simp] theorem State.setReg8_c_fault (v : Byte) : (s.setReg8 .c v).fault = s.fault := rfl
@[simp] theorem State.setReg8_c_params (v : Byte) : (s.setReg8 .c v).params = s.params := rfl
@[simp] theorem State.setReg8_d_a (v : Byte) : (s.setReg8 .d v).a = s.a := rfl
@[simp] theorem State.setReg8_d_b (v : Byte) : (s.setReg8 .d v).b = s.b := rfl
@[simp] theorem State.setReg8_d_c (v : Byte) : (s.setReg8 .d v).c = s.c := rfl
@[simp] theorem State.setReg8_d_d (v : Byte) : (s.setReg8 .d v).d = v := rfl
@[simp] theorem State.setReg8_d_e (v : Byte) : (s.setReg8 .d v).e = s.e := rfl
@[simp] theorem State.setReg8_d_f (v : Byte) : (s.setReg8 .d v).f = s.f := rfl
@[simp] theorem State.setReg8_d_h (v : Byte) : (s.setReg8 .d v).h = s.h := rfl
@[simp] theorem State.setReg8_d_l (v : Byte) : (s.setReg8 .d v).l = s.l := rfl
@[simp] theorem State.setReg8_d_pc (v : Byte) : (s.setReg8 .d v).pc = s.pc := rfl
@[simp] theorem State.setReg8_d_sp (v : Byte) : (s.setReg8 .d v).sp = s.sp := rfl
@[simp] theorem State.setReg8_d_mem (v : Byte) : (s.setReg8 .d v).mem = s.mem := rfl
@[simp] theorem State.setReg8_d_cycles (v : Byte) : (s.setReg8 .d v).cycles = s.cycles := rfl
@[simp] theorem State.setReg8_d_fault (v : Byte) : (s.setReg8 .d v).fault = s.fault := rfl
@[simp] theorem State.setReg8_d_params (v : Byte) : (s.setReg8 .d v).params = s.params := rfl
@[simp] theorem State.setReg8_e_a (v : Byte) : (s.setReg8 .e v).a = s.a := rfl
@[simp] theorem State.setReg8_e_b (v : Byte) : (s.setReg8 .e v).b = s.b := rfl
@[simp] theorem State.setReg8_e_c (v : Byte) : (s.setReg8 .e v).c = s.c := rfl
@[simp] theorem State.setReg8_e_d (v : Byte) : (s.setReg8 .e v).d = s.d := rfl
@[simp] theorem State.setReg8_e_e (v : Byte) : (s.setReg8 .e v).e = v := rfl
@[simp] theorem State.setReg8_e_f (v : Byte) : (s.setReg8 .e v).f = s.f := rfl
@[simp] theorem State.setReg8_e_h (v : Byte) : (s.setReg8 .e v).h = s.h := rfl
@[simp] theorem State.setReg8_e_l (v : Byte) : (s.setReg8 .e v).l = s.l := rfl
@[simp] theorem State.setReg8_e_pc (v : Byte) : (s.setReg8 .e v).pc = s.pc := rfl
@[simp] theorem State.setReg8_e_sp (v : Byte) : (s.setReg8 .e v).sp = s.sp := rfl
@[simp] theorem State.setReg8_e_mem (v : Byte) : (s.setReg8 .e v).mem = s.mem := rfl
@[simp] theorem State.setReg8_e_cycles (v : Byte) : (s.setReg8 .e v).cycles = s.cycles := rfl
@[simp] theorem State.setReg8_e_fault (v : Byte) : (s.setReg8 .e v).fault = s.fault := rfl
@[simp] theorem State.setReg8_e_params (v : Byte) : (s.setReg8 .e v).params = s.params := rfl
@[simp] theorem State.setReg8_f_a (v : Byte) : (s.setReg8 .f v).a = s.a := rfl
@[simp] theorem State.setReg8_f_b (v : Byte) : (s.setReg8 .f v).b = s.b := rfl
@[simp] theorem State.setReg8_f_c (v : Byte) : (s.setReg8 .f v).c = s.c := rfl
@[simp] theorem State.setReg8_f_d (v : Byte) : (s.setReg8 .f v).d = s.d := rfl
@[simp] theorem State.setReg8_f_e (v : Byte) : (s.setReg8 .f v).e = s.e := rfl
@[simp] theorem State.setReg8_f_f (v : Byte) : (s.setReg8 .f v).f = v &&& 0xF0 := rfl
@[simp] theorem State.setReg8_f_h (v : Byte) : (s.setReg8 .f v).h = s.h := rfl
@[simp] theorem State.setReg8_f_l (v : Byte) : (s.setReg8 .f v).l = s.l := rfl
@[simp] theorem State.setReg8_f_pc (v : Byte) : (s.setReg8 .f v).pc = s.pc := rfl
@[simp] theorem State.setReg8_f_sp (v : Byte) : (s.setReg8 .f v).sp = s.sp := rfl
@[simp] theorem State.setReg8_f_mem (v : Byte) : (s.setReg8 .f v).mem = s.mem := rfl
@[simp] theorem State.setReg8_f_cycles (v : Byte) : (s.setReg8 .f v).cycles = s.cycles := rfl
@[simp] theorem State.setReg8_f_fault (v : Byte) : (s.setReg8 .f v).fault = s.fault := rfl
@[simp] theorem State.setReg8_f_params (v : Byte) : (s.setReg8 .f v).params = s.params := rfl
@[simp] theorem State.setReg8_h_a (v : Byte) : (s.setReg8 .h v).a = s.a := rfl
@[simp] theorem State.setReg8_h_b (v : Byte) : (s.setReg8 .h v).b = s.b := rfl
@[simp] theorem State.setReg8_h_c (v : Byte) : (s.setReg8 .h v).c = s.c := rfl
@[simp] theorem State.setReg8_h_d (v : Byte) : (s.setReg8 .h v).d = s.d := rfl
@[simp] theorem State.setReg8_h_e (v : Byte) : (s.setReg8 .h v).e = s.e := rfl
@[simp] theorem State.setReg8_h_f (v : Byte) : (s.setReg8 .h v).f = s.f := rfl
@[simp] theorem State.setReg8_h_h (v : Byte) : (s.setReg8 .h v).h = v := rfl
@[simp] theorem State.setReg8_h_l (v : Byte) : (s.setReg8 .h v).l = s.l := rfl
@[simp] theorem State.setReg8_h_pc (v : Byte) : (s.setReg8 .h v).pc = s.pc := rfl
@[simp] theorem State.setReg8_h_sp (v : Byte) : (s.setReg8 .h v).sp = s.sp := rfl
@[simp] theorem State.setReg8_h_mem (v : Byte) : (s.setReg8 .h v).mem = s.mem := rfl
@[simp] theorem State.setReg8_h_cycles (v : Byte) : (s.setReg8 .h v).cycles = s.cycles := rfl
@[simp] theorem State.setReg8_h_fault (v : Byte) : (s.setReg8 .h v).fault = s.fault := rfl
@[simp] theorem State.setReg8_h_params (v : Byte) : (s.setReg8 .h v).params = s.params := rfl
@[simp] theorem State.setReg8_l_a (v : Byte) : (s.setReg8 .l v).a = s.a := rfl
@[simp] theorem State.setReg8_l_b (v : Byte) : (s.setReg8 .l v).b = s.b := rfl
@[simp] theorem State.setReg8_l_c (v : Byte) : (s.setReg8 .l v).c = s.c := rfl
@[simp] theorem State.setReg8_l_d (v : Byte) : (s.setReg8 .l v).d = s.d := rfl
@[simp] theorem State.setReg8_l_e (v : Byte) : (s.setReg8 .l v).e = s.e := rfl
@[simp] theorem State.setReg8_l_f (v : Byte) : (s.setReg8 .l v).f = s.f := rfl
@[simp] theorem State.setReg8_l_h (v : Byte) : (s.setReg8 .l v).h = s.h := rfl
@[simp] theorem State.setReg8_l_l (v : Byte) : (s.setReg8 .l v).l = v := rfl
@[simp] theorem State.setReg8_l_pc (v : Byte) : (s.setReg8 .l v).pc = s.pc := rfl
@[simp] theorem State.setReg8_l_sp (v : Byte) : (s.setReg8 .l v).sp = s.sp := rfl
@[simp] theorem State.setReg8_l_mem (v : Byte) : (s.setReg8 .l v).mem = s.mem := rfl
@[simp] theorem State.setReg8_l_cycles (v : Byte) : (s.setReg8 .l v).cycles = s.cycles := rfl
@[simp] theorem State.setReg8_l_fault (v : Byte) : (s.setReg8 .l v).fault = s.fault := rfl
@[simp] theorem State.setReg8_l_params (v : Byte) : (s.setReg8 .l v).params = s.params := rfl

@[simp] theorem State.setReg8_pc (r : Reg8) (v : Byte) : (s.setReg8 r v).pc = s.pc := by cases r <;> rfl
@[simp] theorem State.setReg8_sp (r : Reg8) (v : Byte) : (s.setReg8 r v).sp = s.sp := by cases r <;> rfl
@[simp] theorem State.setReg8_mem (r : Reg8) (v : Byte) : (s.setReg8 r v).mem = s.mem := by cases r <;> rfl
@[simp] theorem State.setReg8_cycles (r : Reg8) (v : Byte) : (s.setReg8 r v).cycles = s.cycles := by cases r <;> rfl
@[simp] theorem State.setReg8_fault (r : Reg8) (v : Byte) : (s.setReg8 r v).fault = s.fault := by cases r <;> rfl
@[simp] theorem State.setReg8_params (r : Reg8) (v : Byte) : (s.setReg8 r v).params = s.params := by cases r <;> rfl

/-! ### PC, SP and memory written -/

@[simp] theorem State.setPc_a (v : Word) : (s.setPc v).a = s.a := rfl
@[simp] theorem State.setPc_b (v : Word) : (s.setPc v).b = s.b := rfl
@[simp] theorem State.setPc_c (v : Word) : (s.setPc v).c = s.c := rfl
@[simp] theorem State.setPc_d (v : Word) : (s.setPc v).d = s.d := rfl
@[simp] theorem State.setPc_e (v : Word) : (s.setPc v).e = s.e := rfl
@[simp] theorem State.setPc_f (v : Word) : (s.setPc v).f = s.f := rfl
@[simp] theorem State.setPc_h (v : Word) : (s.setPc v).h = s.h := rfl
@[simp] theorem State.setPc_l (v : Word) : (s.setPc v).l = s.l := rfl
@[simp] theorem State.setPc_pc (v : Word) : (s.setPc v).pc = v := rfl
@[simp] theorem State.setPc_sp (v : Word) : (s.setPc v).sp = s.sp := rfl
@[simp] theorem State.setPc_mem (v : Word) : (s.setPc v).mem = s.mem := rfl
@[simp] theorem State.setPc_cycles (v : Word) : (s.setPc v).cycles = s.cycles := rfl
@[simp] theorem State.setPc_fault (v : Word) : (s.setPc v).fault = s.fault := rfl
@[simp] theorem State.setPc_params (v : Word) : (s.setPc v).params = s.params := rfl

/-! ### SP written -/

@[simp] theorem State.setSp_a (v : Word) : (s.setSp v).a = s.a := rfl
@[simp] theorem State.setSp_b (v : Word) : (s.setSp v).b = s.b := rfl
@[simp] theorem State.setSp_c (v : Word) : (s.setSp v).c = s.c := rfl
@[simp] theorem State.setSp_d (v : Word) : (s.setSp v).d = s.d := rfl
@[simp] theorem State.setSp_e (v : Word) : (s.setSp v).e = s.e := rfl
@[simp] theorem State.setSp_f (v : Word) : (s.setSp v).f = s.f := rfl
@[simp] theorem State.setSp_h (v : Word) : (s.setSp v).h = s.h := rfl
@[simp] theorem State.setSp_l (v : Word) : (s.setSp v).l = s.l := rfl
@[simp] theorem State.setSp_pc (v : Word) : (s.setSp v).pc = s.pc := rfl
@[simp] theorem State.setSp_sp (v : Word) : (s.setSp v).sp = v := rfl
@[simp] theorem State.setSp_mem (v : Word) : (s.setSp v).mem = s.mem := rfl
@[simp] theorem State.setSp_cycles (v : Word) : (s.setSp v).cycles = s.cycles := rfl
@[simp] theorem State.setSp_fault (v : Word) : (s.setSp v).fault = s.fault := rfl
@[simp] theorem State.setSp_params (v : Word) : (s.setSp v).params = s.params := rfl

/-! ### Memory written -/

@[simp] theorem State.setMem_a (m : Memory) : (s.setMem m).a = s.a := rfl
@[simp] theorem State.setMem_b (m : Memory) : (s.setMem m).b = s.b := rfl
@[simp] theorem State.setMem_c (m : Memory) : (s.setMem m).c = s.c := rfl
@[simp] theorem State.setMem_d (m : Memory) : (s.setMem m).d = s.d := rfl
@[simp] theorem State.setMem_e (m : Memory) : (s.setMem m).e = s.e := rfl
@[simp] theorem State.setMem_f (m : Memory) : (s.setMem m).f = s.f := rfl
@[simp] theorem State.setMem_h (m : Memory) : (s.setMem m).h = s.h := rfl
@[simp] theorem State.setMem_l (m : Memory) : (s.setMem m).l = s.l := rfl
@[simp] theorem State.setMem_pc (m : Memory) : (s.setMem m).pc = s.pc := rfl
@[simp] theorem State.setMem_sp (m : Memory) : (s.setMem m).sp = s.sp := rfl
@[simp] theorem State.setMem_mem (m : Memory) : (s.setMem m).mem = m := rfl
@[simp] theorem State.setMem_cycles (m : Memory) : (s.setMem m).cycles = s.cycles := rfl
@[simp] theorem State.setMem_fault (m : Memory) : (s.setMem m).fault = s.fault := rfl
@[simp] theorem State.setMem_params (m : Memory) : (s.setMem m).params = s.params := rfl

/-! ### PC advanced -/

@[simp] theorem State.advancePc_a (n : Nat) : (s.advancePc n).a = s.a := rfl
@[simp] theorem State.advancePc_b (n : Nat) : (s.advancePc n).b = s.b := rfl
@[simp] theorem State.advancePc_c (n : Nat) : (s.advancePc n).c = s.c := rfl
@[simp] theorem State.advancePc_d (n : Nat) : (s.advancePc n).d = s.d := rfl
@[simp] theorem State.advancePc_e (n : Nat) : (s.advancePc n).e = s.e := rfl
@[simp] theorem State.advancePc_f (n : Nat) : (s.advancePc n).f = s.f := rfl
@[simp] theorem State.advancePc_h (n : Nat) : (s.advancePc n).h = s.h := rfl
@[simp] theorem State.advancePc_l (n : Nat) : (s.advancePc n).l = s.l := rfl
@[simp] theorem State.advancePc_pc (n : Nat) : (s.advancePc n).pc = s.pc + BitVec.ofNat 16 n := rfl
@[simp] theorem State.advancePc_sp (n : Nat) : (s.advancePc n).sp = s.sp := rfl
@[simp] theorem State.advancePc_mem (n : Nat) : (s.advancePc n).mem = s.mem := rfl
@[simp] theorem State.advancePc_cycles (n : Nat) : (s.advancePc n).cycles = s.cycles := rfl
@[simp] theorem State.advancePc_fault (n : Nat) : (s.advancePc n).fault = s.fault := rfl
@[simp] theorem State.advancePc_params (n : Nat) : (s.advancePc n).params = s.params := rfl

/-! ### A byte stored -/

@[simp] theorem State.store8_a (a : Word) (v : Byte) : (s.store8 a v).a = s.a := rfl
@[simp] theorem State.store8_b (a : Word) (v : Byte) : (s.store8 a v).b = s.b := rfl
@[simp] theorem State.store8_c (a : Word) (v : Byte) : (s.store8 a v).c = s.c := rfl
@[simp] theorem State.store8_d (a : Word) (v : Byte) : (s.store8 a v).d = s.d := rfl
@[simp] theorem State.store8_e (a : Word) (v : Byte) : (s.store8 a v).e = s.e := rfl
@[simp] theorem State.store8_f (a : Word) (v : Byte) : (s.store8 a v).f = s.f := rfl
@[simp] theorem State.store8_h (a : Word) (v : Byte) : (s.store8 a v).h = s.h := rfl
@[simp] theorem State.store8_l (a : Word) (v : Byte) : (s.store8 a v).l = s.l := rfl
@[simp] theorem State.store8_pc (a : Word) (v : Byte) : (s.store8 a v).pc = s.pc := rfl
@[simp] theorem State.store8_sp (a : Word) (v : Byte) : (s.store8 a v).sp = s.sp := rfl
@[simp] theorem State.store8_mem (a : Word) (v : Byte) : (s.store8 a v).mem = s.mem.writeByte a v := rfl
@[simp] theorem State.store8_cycles (a : Word) (v : Byte) : (s.store8 a v).cycles = s.cycles := rfl
@[simp] theorem State.store8_fault (a : Word) (v : Byte) : (s.store8 a v).fault = s.fault := rfl
@[simp] theorem State.store8_params (a : Word) (v : Byte) : (s.store8 a v).params = s.params := rfl

/-! ### A word stored -/

@[simp] theorem State.store16_a (a w : Word) : (s.store16 a w).a = s.a := rfl
@[simp] theorem State.store16_b (a w : Word) : (s.store16 a w).b = s.b := rfl
@[simp] theorem State.store16_c (a w : Word) : (s.store16 a w).c = s.c := rfl
@[simp] theorem State.store16_d (a w : Word) : (s.store16 a w).d = s.d := rfl
@[simp] theorem State.store16_e (a w : Word) : (s.store16 a w).e = s.e := rfl
@[simp] theorem State.store16_f (a w : Word) : (s.store16 a w).f = s.f := rfl
@[simp] theorem State.store16_h (a w : Word) : (s.store16 a w).h = s.h := rfl
@[simp] theorem State.store16_l (a w : Word) : (s.store16 a w).l = s.l := rfl
@[simp] theorem State.store16_pc (a w : Word) : (s.store16 a w).pc = s.pc := rfl
@[simp] theorem State.store16_sp (a w : Word) : (s.store16 a w).sp = s.sp := rfl
@[simp] theorem State.store16_mem (a w : Word) : (s.store16 a w).mem = s.mem.writeWord a w := rfl
@[simp] theorem State.store16_cycles (a w : Word) : (s.store16 a w).cycles = s.cycles := rfl
@[simp] theorem State.store16_fault (a w : Word) : (s.store16 a w).fault = s.fault := rfl
@[simp] theorem State.store16_params (a w : Word) : (s.store16 a w).params = s.params := rfl

/-! ### Cycles added -/

@[simp] theorem State.addCycles_a (n : Nat) : (s.addCycles n).a = s.a := rfl
@[simp] theorem State.addCycles_b (n : Nat) : (s.addCycles n).b = s.b := rfl
@[simp] theorem State.addCycles_c (n : Nat) : (s.addCycles n).c = s.c := rfl
@[simp] theorem State.addCycles_d (n : Nat) : (s.addCycles n).d = s.d := rfl
@[simp] theorem State.addCycles_e (n : Nat) : (s.addCycles n).e = s.e := rfl
@[simp] theorem State.addCycles_f (n : Nat) : (s.addCycles n).f = s.f := rfl
@[simp] theorem State.addCycles_h (n : Nat) : (s.addCycles n).h = s.h := rfl
@[simp] theorem State.addCycles_l (n : Nat) : (s.addCycles n).l = s.l := rfl
@[simp] theorem State.addCycles_pc (n : Nat) : (s.addCycles n).pc = s.pc := rfl
@[simp] theorem State.addCycles_sp (n : Nat) : (s.addCycles n).sp = s.sp := rfl
@[simp] theorem State.addCycles_mem (n : Nat) : (s.addCycles n).mem = s.mem := rfl
@[simp] theorem State.addCycles_cycles (n : Nat) : (s.addCycles n).cycles = wrapCounter s.params.counterWidth (s.cycles + n) := rfl
@[simp] theorem State.addCycles_fault (n : Nat) : (s.addCycles n).fault = s.fault := rfl
@[simp] theorem State.addCycles_params (n : Nat) : (s.addCycles n).params = s.params := rfl

/-! ### A flag written -/

@[simp] theorem State.setFlag_a (g : Flag) (v : Bool) : (s.setFlag g v).a = s.a := rfl
@[simp] theorem State.setFlag_b (g : Flag) (v : Bool) : (s.setFlag g v).b = s.b := rfl
@[simp] theorem State.setFlag_c (g : Flag) (v : Bool) : (s.setFlag g v).c = s.c := rfl
@[simp] theorem State.setFlag_d (g : Flag) (v : Bool) : (s.setFlag g v).d = s.d := rfl
@[simp] theorem State.setFlag_e (g : Flag) (v : Bool) : (s.setFlag g v).e = s.e := rfl
@[simp] theorem State.setFlag_h (g : Flag) (v : Bool) : (s.setFlag g v).h = s.h := rfl
@[simp] theorem State.setFlag_l (g : Flag) (v : Bool) : (s.setFlag g v).l = s.l := rfl
@[simp] theorem State.setFlag_pc (g : Flag) (v : Bool) : (s.setFlag g v).pc = s.pc := rfl
@[simp] theorem State.setFlag_sp (g : Flag) (v : Bool) : (s.setFlag g v).sp = s.sp := rfl
@[simp] theorem State.setFlag_mem (g : Flag) (v : Bool) : (s.setFlag g v).mem = s.mem := rfl
@[simp] theorem State.setFlag_cycles (g : Flag) (v : Bool) : (s.setFlag g v).cycles = s.cycles := rfl
@[simp] theorem State.setFlag_fault (g : Flag) (v : Bool) : (s.setFlag g v).fault = s.fault := rfl
@[simp] theorem State.setFlag_params (g : Flag) (v : Bool) : (s.setFlag g v).params = s.params := rfl

@[simp] theorem State.storeFlag_a (w : Bool) (g : Flag) (v : Bool) : (s.storeFlag w g v).a = s.a := by cases w <;> rfl
@[simp] theorem State.storeFlag_b (w : Bool) (g : Flag) (v : Bool) : (s.storeFlag w g v).b = s.b := by cases w <;> rfl
@[simp] theorem State.storeFlag_c (w : Bool) (g : Flag) (v : Bool) : (s.storeFlag w g v).c = s.c := by cases w <;> rfl
@[simp] theorem State.storeFlag_d (w : Bool) (g : Flag) (v : Bool) : (s.storeFlag w g v).d = s.d := by cases w <;> rfl
@[simp] theorem State.storeFlag_e (w : Bool) (g : Flag) (v : Bool) : (s.storeFlag w g v).e = s.e := by cases w <;> rfl
@[simp] theorem State.storeFlag_h (w : Bool) (g : Flag) (v : Bool) : (s.storeFlag w g v).h = s.h := by cases w <;> rfl
@[simp] theorem State.storeFlag_l (w : Bool) (g : Flag) (v : Bool) : (s.storeFlag w g v).l = s.l := by cases w <;> rfl
@[simp] theorem State.storeFlag_pc (w : Bool) (g : Flag) (v : Bool) : (s.storeFlag w g v).pc = s.pc := by cases w <;> rfl
@[simp] theorem State.storeFlag_sp (w : Bool) (g : Flag) (v : Bool) : (s.storeFlag w g v).sp = s.sp := by cases w <;> rfl
@[simp] theorem State.storeFlag_mem (w : Bool) (g : Flag) (v : Bool) : (s.storeFlag w g v).mem = s.mem := by cases w <;> rfl
@[simp] theorem State.storeFlag_cycles (w : Bool) (g : Flag) (v : Bool) : (s.storeFlag w g v).cycles = s.cycles := by cases w <;> rfl
@[simp] theorem State.storeFlag_fault (w : Bool) (g : Flag) (v : Bool) : (s.storeFlag w g v).fault = s.fault := by cases w <;> rfl
@[simp] theorem State.storeFlag_params (w : Bool) (g : Flag) (v : Bool) : (s.storeFlag w g v).params = s.params := by cases w <;> rfl

@[simp] theorem State.storeFlags_a (m : FlagMask) (o : AluResult) : (s.storeFlags m o).a = s.a := by
  unfold State.storeFlags; cases o.c <;> simp
@[simp] theorem State.storeFlags_b (m : FlagMask) (o : AluResult) : (s.storeFlags m o).b = s.b := by
  unfold State.storeFlags; cases o.c <;> simp
@[simp] theorem State.storeFlags_c (m : FlagMask) (o : AluResult) : (s.storeFlags m o).c = s.c := by
  unfold State.storeFlags; cases o.c <;> simp
@[simp] theorem State.storeFlags_d (m : FlagMask) (o : AluResult) : (s.storeFlags m o).d = s.d := by
  unfold State.storeFlags; cases o.c <;> simp
@[simp] theorem State.storeFlags_e (m : FlagMask) (o : AluResult) : (s.storeFlags m o).e = s.e := by
  unfold State.storeFlags; cases o.c <;> simp
@[simp] theorem State.storeFlags_h (m : FlagMask) (o : AluResult) : (s.storeFlags m o).h = s.h := by
  unfold State.storeFlags; cases o.c <;> simp
@[simp] theorem State.storeFlags_l (m : FlagMask) (o : AluResult) : (s.storeFlags m o).l = s.l := by
  unfold State.storeFlags; cases o.c <;> simp
@[simp] theorem State.storeFlags_pc (m : FlagMask) (o : AluResult) : (s.storeFlags m o).pc = s.pc := by
  unfold State.storeFlags; cases o.c <;> simp
@[simp] theorem State.storeFlags_sp (m : FlagMask) (o : AluResult) : (s.storeFlags m o).sp = s.sp := by
  unfold State.storeFlags; cases o.c <;> simp
@[simp] theorem State.storeFlags_mem (m : FlagMask) (o : AluResult) : (s.storeFlags m o).mem = s.mem := by
  unfold State.storeFlags; cases o.c <;> simp
@[simp] theorem State.storeFlags_cycles (m : FlagMask) (o : AluResult) : (s.storeFlags m o).cycles = s.cycles := by
  unfold State.storeFlags; cases o.c <;> simp
@[simp] theorem State.storeFlags_fault (m : FlagMask) (o : AluResult) : (s.storeFlags m o).fault = s.fault := by
  unfold State.storeFlags; cases o.c <;> simp
@[simp] theorem State.storeFlags_params (m : FlagMask) (o : AluResult) : (s.storeFlags m o).params = s.params := by
  unfold State.storeFlags; cases o.c <;> simp

/-! ### A pair written -/

@[simp] theorem State.setPair_pc (p : Pair) (w : Word) : (s.setPair p w).pc = s.pc := by simp [State.setPair]
@[simp] theorem State.setPair_sp (p : Pair) (w : Word) : (s.setPair p w).sp = s.sp := by simp [State.setPair]
@[simp] theorem State.setPair_mem (p : Pair) (w : Word) : (s.setPair p w).mem = s.mem := by simp [State.setPair]
@[simp] theorem State.setPair_cycles (p : Pair) (w : Word) : (s.setPair p w).cycles = s.cycles := by simp [State.setPair]
@[simp] theorem State.setPair_fault (p : Pair) (w : Word) : (s.setPair p w).fault = s.fault := by simp [State.setPair]
@[simp] theorem State.setPair_params (p : Pair) (w : Word) : (s.setPair p w).params = s.params := by simp [State.setPair]

@[simp] theorem State.setPair_bc_a (w : Word) : (s.setPair .bc w).a = s.a := rfl
@[simp] theorem State.setPair_bc_b (w : Word) : (s.setPair .bc w).b = hiByte w := rfl
@[simp] theorem State.setPair_bc_c (w : Word) : (s.setPair .bc w).c = loByte w := rfl
@[simp] theorem State.setPair_bc_d (w : Word) : (s.setPair .bc w).d = s.d := rfl
@[simp] theorem State.setPair_bc_e (w : Word) : (s.setPair .bc w).e = s.e := rfl
@[simp] theorem State.setPair_bc_f (w : Word) : (s.setPair .bc w).f = s.f := rfl
@[simp] theorem State.setPair_bc_h (w : Word) : (s.setPair .bc w).h = s.h := rfl
@[simp] theorem State.setPair_bc_l (w : Word) : (s.setPair .bc w).l = s.l := rfl
@[simp] theorem State.setPair_de_a (w : Word) : (s.setPair .de w).a = s.a := rfl
@[simp] theorem State.setPair_de_b (w : Word) : (s.setPair .de w).b = s.b := rfl
@[simp] theorem State.setPair_de_c (w : Word) : (s.setPair .de w).c = s.c := rfl
@[simp] theorem State.setPair_de_d (w : Word) : (s.setPair .de w).d = hiByte w := rfl
@[simp] theorem State.setPair_de_e (w : Word) : (s.setPair .de w).e = loByte w := rfl
@[simp] theorem State.setPair_de_f (w : Word) : (s.setPair .de w).f = s.f := rfl
@[simp] theorem State.setPair_de_h (w : Word) : (s.setPair .de w).h = s.h := rfl
@[simp] theorem State.setPair_de_l (w : Word) : (s.setPair .de w).l = s.l := rfl
@[simp] theorem State.setPair_hl_a (w : Word) : (s.setPair .hl w).a = s.a := rfl
@[simp] theorem State.setPair_hl_b (w : Word) : (s.setPair .hl w).b = s.b := rfl
@[simp] theorem State.setPair_hl_c (w : Word) : (s.setPair .hl w).c = s.c := rfl
@[simp] theorem State.setPair_hl_d (w : Word) : (s.setPair .hl w).d = s.d := rfl
@[simp] theorem State.setPair_hl_e (w : Word) : (s.setPair .hl w).e = s.e := rfl
@[simp] theorem State.setPair_hl_f (w : Word) : (s.setPair .hl w).f = s.f := rfl
@[simp] theorem State.setPair_hl_h (w : Word) : (s.setPair .hl w).h = hiByte w := rfl
@[simp] theorem State.setPair_hl_l (w : Word) : (s.setPair .hl w).l = loByte w := rfl
@[simp] theorem State.setPair_af_a (w : Word) : (s.setPair .af w).a = hiByte w := rfl
@[simp] theorem State.setPair_af_b (w : Word) : (s.setPair .af w).b = s.b := rfl
@[simp] theorem State.setPair_af_c (w : Word) : (s.setPair .af w).c = s.c := rfl
@[simp] theorem State.setPair_af_d (w : Word) : (s.setPair .af w).d = s.d := rfl
@[simp] theorem State.setPair_af_e (w : Word) : (s.setPair .af w).e = s.e := rfl
@[simp] theorem State.setPair_af_f (w : Word) : (s.setPair .af w).f = loByte w &&& 0xF0 := rfl
@[simp] theorem State.setPair_af_h (w : Word) : (s.setPair .af w).h = s.h := rfl
@[simp] theorem State.setPair_af_l (w : Word) : (s.setPair .af w).l = s.l := rfl

/-! ### The fault latch set -/

@[simp] theorem State.latchFault_a (r : FaultRecord) : (s.latchFault r).a = s.a := by
  unfold State.latchFault; split <;> rfl
@[simp] theorem State.latchFault_b (r : FaultRecord) : (s.latchFault r).b = s.b := by
  unfold State.latchFault; split <;> rfl
@[simp] theorem State.latchFault_c (r : FaultRecord) : (s.latchFault r).c = s.c := by
  unfold State.latchFault; split <;> rfl
@[simp] theorem State.latchFault_d (r : FaultRecord) : (s.latchFault r).d = s.d := by
  unfold State.latchFault; split <;> rfl
@[simp] theorem State.latchFault_e (r : FaultRecord) : (s.latchFault r).e = s.e := by
  unfold State.latchFault; split <;> rfl
@[simp] theorem State.latchFault_f (r : FaultRecord) : (s.latchFault r).f = s.f := by
  unfold State.latchFault; split <;> rfl
@[simp] theorem State.latchFault_h (r : FaultRecord) : (s.latchFault r).h = s.h := by
  unfold State.latchFault; split <;> rfl
@[simp] theorem State.latchFault_l (r : FaultRecord) : (s.latchFault r).l = s.l := by
  unfold State.latchFault; split <;> rfl
@[simp] theorem State.latchFault_pc (r : FaultRecord) : (s.latchFault r).pc = s.pc := by
  unfold State.latchFault; split <;> rfl
@[simp] theorem State.latchFault_sp (r : FaultRecord) : (s.latchFault r).sp = s.sp := by
  unfold State.latchFault; split <;> rfl
@[simp] theorem State.latchFault_mem (r : FaultRecord) : (s.latchFault r).mem = s.mem := by
  unfold State.latchFault; split <;> rfl
@[simp] theorem State.latchFault_cycles (r : FaultRecord) : (s.latchFault r).cycles = s.cycles := by
  unfold State.latchFault; split <;> rfl
@[simp] theorem State.latchFault_params (r : FaultRecord) : (s.latchFault r).params = s.params := by
  unfold State.latchFault; split <;> rfl

/-- The latch takes the record only if it was none (R34). -/
theorem State.latchFault_fault (r : FaultRecord) : (s.latchFault r).fault = some (s.fault.getD r) := by
  unfold State.latchFault; split <;> simp_all

/-! ### Bytes loaded -/

@[simp] theorem State.load_a (a : Word) (bs : List Byte) : (s.load a bs).a = s.a := by
  induction bs generalizing s a with
  | nil => rfl
  | cons v rest ih => simp [State.load, ih]
@[simp] theorem State.load_b (a : Word) (bs : List Byte) : (s.load a bs).b = s.b := by
  induction bs generalizing s a with
  | nil => rfl
  | cons v rest ih => simp [State.load, ih]
@[simp] theorem State.load_c (a : Word) (bs : List Byte) : (s.load a bs).c = s.c := by
  induction bs generalizing s a with
  | nil => rfl
  | cons v rest ih => simp [State.load, ih]
@[simp] theorem State.load_d (a : Word) (bs : List Byte) : (s.load a bs).d = s.d := by
  induction bs generalizing s a with
  | nil => rfl
  | cons v rest ih => simp [State.load, ih]
@[simp] theorem State.load_e (a : Word) (bs : List Byte) : (s.load a bs).e = s.e := by
  induction bs generalizing s a with
  | nil => rfl
  | cons v rest ih => simp [State.load, ih]
@[simp] theorem State.load_f (a : Word) (bs : List Byte) : (s.load a bs).f = s.f := by
  induction bs generalizing s a with
  | nil => rfl
  | cons v rest ih => simp [State.load, ih]
@[simp] theorem State.load_h (a : Word) (bs : List Byte) : (s.load a bs).h = s.h := by
  induction bs generalizing s a with
  | nil => rfl
  | cons v rest ih => simp [State.load, ih]
@[simp] theorem State.load_l (a : Word) (bs : List Byte) : (s.load a bs).l = s.l := by
  induction bs generalizing s a with
  | nil => rfl
  | cons v rest ih => simp [State.load, ih]
@[simp] theorem State.load_pc (a : Word) (bs : List Byte) : (s.load a bs).pc = s.pc := by
  induction bs generalizing s a with
  | nil => rfl
  | cons v rest ih => simp [State.load, ih]
@[simp] theorem State.load_sp (a : Word) (bs : List Byte) : (s.load a bs).sp = s.sp := by
  induction bs generalizing s a with
  | nil => rfl
  | cons v rest ih => simp [State.load, ih]
@[simp] theorem State.load_cycles (a : Word) (bs : List Byte) : (s.load a bs).cycles = s.cycles := by
  induction bs generalizing s a with
  | nil => rfl
  | cons v rest ih => simp [State.load, ih]
@[simp] theorem State.load_fault (a : Word) (bs : List Byte) : (s.load a bs).fault = s.fault := by
  induction bs generalizing s a with
  | nil => rfl
  | cons v rest ih => simp [State.load, ih]
@[simp] theorem State.load_params (a : Word) (bs : List Byte) : (s.load a bs).params = s.params := by
  induction bs generalizing s a with
  | nil => rfl
  | cons v rest ih => simp [State.load, ih]

/-! ### Fetching -/

@[simp] theorem State.fetch8_fst : s.fetch8.1 = s.mem.readByte s.pc := rfl
@[simp] theorem State.fetch8_snd : s.fetch8.2 = s.advancePc 1 := rfl

end Sys2Proof.Machine
end

