-- ==== Sys2Proof/Laws/Ops.lean ====
section
/-! SUPPORT. Once for each shared operation, what it does: register writes, pair writes, flag writes, the counter. -/

namespace Sys2Proof.Machine

variable (s : State)

/-- A register write is seen by that register's read and by no other (R17, R18, R20). -/
theorem reg8_setReg8 (r q : Reg8) (v : Byte) :
    (s.setReg8 r v).reg8 q = if q = r then (if r = .f then v &&& 0xF0 else v) else s.reg8 q := by
  cases r <;> cases q <;> rfl

/-- A pair write is seen by its two registers and by no other (R23, R24). -/
theorem reg8_setPair (p : Pair) (q : Reg8) (w : Word) :
    (s.setPair p w).reg8 q =
      if q = p.lo then (if q = .f then loByte w &&& 0xF0 else loByte w) else if q = p.hi then hiByte w else s.reg8 q := by
  cases p <;> cases q <;> rfl

@[simp] theorem reg8_setPc (q : Reg8) (v : Word) : (s.setPc v).reg8 q = s.reg8 q := by cases q <;> rfl
@[simp] theorem reg8_setSp (q : Reg8) (v : Word) : (s.setSp v).reg8 q = s.reg8 q := by cases q <;> rfl
@[simp] theorem reg8_setMem (q : Reg8) (m : Memory) : (s.setMem m).reg8 q = s.reg8 q := by cases q <;> rfl
@[simp] theorem reg8_advancePc (q : Reg8) (n : Nat) : (s.advancePc n).reg8 q = s.reg8 q := by cases q <;> rfl
@[simp] theorem reg8_store8 (q : Reg8) (a : Word) (v : Byte) : (s.store8 a v).reg8 q = s.reg8 q := by cases q <;> rfl
@[simp] theorem reg8_store16 (q : Reg8) (a w : Word) : (s.store16 a w).reg8 q = s.reg8 q := by cases q <;> rfl
@[simp] theorem reg8_addCycles (q : Reg8) (n : Nat) : (s.addCycles n).reg8 q = s.reg8 q := by cases q <;> rfl

@[simp] theorem reg8_latchFault (q : Reg8) (r : FaultRecord) : (s.latchFault r).reg8 q = s.reg8 q := by
  unfold State.latchFault; split <;> cases q <;> rfl

/-- A flag write touches F alone. -/
theorem reg8_setFlag (q : Reg8) (hq : q ≠ .f) (g : Flag) (v : Bool) : (s.setFlag g v).reg8 q = s.reg8 q := by
  cases q <;> first | rfl | exact absurd rfl hq

/-- A flag write is seen by that flag's read and by no other (R27, R28). -/
theorem flag_setFlag (g k : Flag) (v : Bool) : (s.setFlag g v).flag k = if k = g then v else s.flag k := by
  cases g <;> cases k <;> cases v <;> simp [State.flag, State.setFlag, Flag.bit]

/-- A flag write leaves F's low nibble as it is (R28). -/
theorem setFlag_low (g : Flag) (v : Bool) : (s.setFlag g v).f &&& 0x0F#8 = s.f &&& 0x0F#8 := by
  have key : ∀ (f : BitVec 8) (g : Flag) (v : Bool),
      (if v then f ||| (1#8 <<< g.bit) else f &&& ~~~(1#8 <<< g.bit)) &&& 0x0F#8 = f &&& 0x0F#8 := by
    intro f g v
    apply BitVec.eq_of_getLsbD_eq
    intro i hi
    cases g <;> cases v <;> interval_cases i <;> simp [Flag.bit]
  exact key s.f g v

/-- Which flags a masked store of an ALU operation's flags writes, and with what (R85). -/
theorem flag_storeFlags (m : FlagMask) (o : AluResult) (k : Flag) :
    (s.storeFlags m o).flag k =
      match k with
      | .z => if m.z then o.z else s.flag .z
      | .n => if m.n then o.n else s.flag .n
      | .h => if m.h then o.h else s.flag .h
      | .c => match o.c with
        | none => s.flag .c
        | some v => if m.c then v else s.flag .c := by
  obtain ⟨mz, mn, mh, mc⟩ := m
  obtain ⟨res, z, n, h, c⟩ := o
  cases c <;> cases mz <;> cases mn <;> cases mh <;> cases mc <;> cases k <;>
    simp [State.storeFlags, State.storeFlag, flag_setFlag]

/-- A masked store of flags leaves F's low nibble as it is (R90). -/
theorem storeFlags_low (m : FlagMask) (o : AluResult) : (s.storeFlags m o).f &&& 0x0F#8 = s.f &&& 0x0F#8 := by
  have one : ∀ (t : State) (w : Bool) (g : Flag) (v : Bool), (t.storeFlag w g v).f &&& 0x0F#8 = t.f &&& 0x0F#8 := by
    intro t w g v
    cases w
    · rfl
    · exact setFlag_low t g v
  unfold State.storeFlags
  cases o.c <;> simp [one]

/-- What a flag write leaves in F depends on F alone. -/
theorem setFlag_f_congr {s t : State} (h : s.f = t.f) (g : Flag) (v : Bool) : (s.setFlag g v).f = (t.setFlag g v).f := by
  simp only [State.setFlag, h]

/-- What a masked store of flags leaves in F depends on F alone. -/
theorem storeFlags_f_congr {s t : State} (h : s.f = t.f) (m : FlagMask) (o : AluResult) :
    (s.storeFlags m o).f = (t.storeFlags m o).f := by
  have one : ∀ {s t : State} (w : Bool) (g : Flag) (v : Bool), s.f = t.f → (s.storeFlag w g v).f = (t.storeFlag w g v).f := by
    intro s t w g v h
    cases w
    · exact h
    · exact setFlag_f_congr h g v
  unfold State.storeFlags
  cases o.c with
  | none => exact one _ _ _ (one _ _ _ (one _ _ _ h))
  | some v => exact one _ _ _ (one _ _ _ (one _ _ _ (one _ _ _ h)))

/-- A wrapped counter value fits its width (R31). -/
theorem wrapCounter_lt {width : Option Nat} {w : Nat} (n : Nat) (h : width = some w) : wrapCounter width n < 2 ^ w := by
  subst h
  exact Nat.mod_lt _ (Nat.two_pow_pos w)

end Sys2Proof.Machine
end

