-- ==== Sys2Proof/Laws/Alu.lean ====
section
/-! SUPPORT. Once, everything an 8-bit ALU instruction does to the state (R85, R90). -/

namespace Sys2Proof.Machine

variable (s : State) (r : Reg8) (op : Byte → AluResult) (m : FlagMask)

@[simp] theorem alu8_pc : (s.alu8 r op m).pc = s.pc := by simp [State.alu8]
@[simp] theorem alu8_sp : (s.alu8 r op m).sp = s.sp := by simp [State.alu8]
@[simp] theorem alu8_mem : (s.alu8 r op m).mem = s.mem := by simp [State.alu8]
@[simp] theorem alu8_cycles : (s.alu8 r op m).cycles = s.cycles := by simp [State.alu8]
@[simp] theorem alu8_fault : (s.alu8 r op m).fault = s.fault := by simp [State.alu8]
@[simp] theorem alu8_params : (s.alu8 r op m).params = s.params := by simp [State.alu8]

/-- Its register takes the result; the other registers but F stay. -/
theorem reg8_alu8 (hr : r ≠ .f) (q : Reg8) (hq : q ≠ .f) :
    (s.alu8 r op m).reg8 q = if q = r then (op (s.reg8 r)).res else s.reg8 q := by
  have key : (s.alu8 r op m).reg8 q = (s.setReg8 r (op (s.reg8 r)).res).reg8 q := by
    cases q <;> first | (simp [State.alu8, State.reg8]; done) | exact absurd rfl hq
  rw [key, reg8_setReg8]
  simp [hr]

/-- Its flags, under the mask. -/
theorem flag_alu8 (hr : r ≠ .f) (k : Flag) :
    (s.alu8 r op m).flag k =
      match k with
      | .z => if m.z then (op (s.reg8 r)).z else s.flag .z
      | .n => if m.n then (op (s.reg8 r)).n else s.flag .n
      | .h => if m.h then (op (s.reg8 r)).h else s.flag .h
      | .c => match (op (s.reg8 r)).c with
        | none => s.flag .c
        | some v => if m.c then v else s.flag .c := by
  have hf : ∀ v k, (s.setReg8 r v).flag k = s.flag k := by
    intro v k
    cases r <;> first | rfl | exact absurd rfl hr
  rw [State.alu8, flag_storeFlags]
  cases k <;> simp only [hf] <;> rfl

/-- F's low nibble stays (R90). -/
theorem alu8_low (hr : r ≠ .f) : (s.alu8 r op m).f &&& 0x0F#8 = s.f &&& 0x0F#8 := by
  have hf : ∀ v, (s.setReg8 r v).f = s.f := by
    intro v
    cases r <;> first | rfl | exact absurd rfl hr
  rw [State.alu8, storeFlags_low, hf]

end Sys2Proof.Machine
end

