-- ==== Sys2Proof/Laws/Decode.lean ====
section
/-! SUPPORT. The opcode table as the decoder sees it: no two rows share an opcode, and a tick's own bytes decode unless the opcode
has no handler. -/

namespace Sys2Proof

/-- "exactly nine rows": no two share an opcode byte (R62). -/
theorem opcodeTable_opcodes_distinct : (opcodeTable.map Handler.opcode).Nodup := by decide

theorem decodeOpcode_opcode (h : Handler) : decodeOpcode h.opcode = some h := by cases h <;> rfl

/-- A byte that decodes is the opcode of the row it decodes to (R63). -/
theorem opcode_of_decodeOpcode {b : Byte} {h : Handler} (hd : decodeOpcode b = some h) : b = h.opcode := by
  have := List.find?_some hd
  simp only [beq_iff_eq] at this
  rw [← this]
  apply BitVec.eq_of_toNat_eq
  have hb := b.isLt
  simp [BitVec.toNat_and]
  rw [show (255 : Nat) = 2 ^ 8 - 1 from rfl, Nat.and_two_pow_sub_one_eq_mod]
  omega

/-- Which instruction an assembled row is, and how many bytes it took. -/
theorem assemble_ok {h : Handler} {bs rest : List Byte} {i : Instr} (ha : assemble h bs = .ok (i, rest)) :
    i.handler = h ∧ bs.length = h.format.operandLength + rest.length := by
  unfold assemble at ha
  split at ha <;> simp at ha <;> obtain ⟨rfl, rfl⟩ := ha <;> simp [Instr.handler, Handler.format, Format.operandLength] <;> omega

open Machine in
/-- A tick's own bytes decode to an instruction of the opcode's row, with nothing left over, or the opcode has no handler. -/
theorem decode_instrBytes (s : State) :
    (decodeOpcode (s.mem.readByte s.pc) = none ∧ decode s.instrBytes = .error (.unsupportedOpcode (s.mem.readByte s.pc))) ∨
    (∃ i, decodeOpcode (s.mem.readByte s.pc) = some i.handler ∧ decode s.instrBytes = .ok (i, [])) := by
  cases hd : decodeOpcode (s.mem.readByte s.pc) with
  | none => left; simp [State.instrBytes, decode, hd]
  | some h =>
    right
    cases h <;>
      simp [State.instrBytes, decode, hd, operandLength, Handler.format, Format.operandLength, State.fetchBytes, assemble,
        Instr.handler]

end Sys2Proof
end

