-- ==== Sys2Proof/Laws/Memory.lean ====
section
/-! SUPPORT. What one byte write does to every byte read, on every list, and that every memory operation keeps the canonical form. -/

namespace Sys2Proof.Machine

/-! ### Reading after writing -/

theorem readByte_erase_same (m : Memory) (a : Word) : (m.erase a).readByte a = Memory.unlisted a := by
  induction m with
  | nil => rfl
  | cons cell rest ih =>
    obtain ⟨k, v⟩ := cell
    by_cases hk : k = a.toNat
    · simpa [Memory.erase, hk] using ih
    · simpa [Memory.erase, hk, Memory.readByte] using ih

theorem readByte_erase_other (m : Memory) {a b : Word} (h : b ≠ a) : (m.erase a).readByte b = m.readByte b := by
  induction m with
  | nil => rfl
  | cons cell rest ih =>
    obtain ⟨k, v⟩ := cell
    have hab : a.toNat ≠ b.toNat := fun e => h (BitVec.eq_of_toNat_eq e.symm)
    by_cases hk : k = a.toNat
    · simpa [Memory.erase, hk, Memory.readByte, hab] using ih
    · by_cases hb : k = b.toNat
      · simp [Memory.erase, Memory.readByte, hb, hab.symm]
      · simpa [Memory.erase, hk, hb, Memory.readByte] using ih

theorem readByte_place_other (m : Memory) {a b : Word} (v : Byte) (h : b ≠ a) :
    (m.place a v).readByte b = m.readByte b := by
  have hab : a.toNat ≠ b.toNat := fun e => h (BitVec.eq_of_toNat_eq e.symm)
  induction m with
  | nil => simp [Memory.place, Memory.readByte, hab]
  | cons cell rest ih =>
    obtain ⟨k, x⟩ := cell
    by_cases hk : a.toNat < k
    · simp [Memory.place, Memory.readByte, hk, hab]
    · by_cases hb : k = b.toNat
      · subst hb
        simp [Memory.place, Memory.readByte, hk]
      · simp [Memory.place, Memory.readByte, hk, hb, ih]

theorem readByte_place_same (m : Memory) (a : Word) (v : Byte) (h : ∀ cell ∈ m, cell.1 ≠ a.toNat) :
    (m.place a v).readByte a = v := by
  induction m with
  | nil => simp [Memory.place, Memory.readByte]
  | cons cell rest ih =>
    obtain ⟨k, x⟩ := cell
    have hk : k ≠ a.toNat := h (k, x) (by simp)
    have hrest : ∀ cell ∈ rest, cell.1 ≠ a.toNat := fun cell hc => h cell (by simp [hc])
    by_cases hlt : a.toNat < k
    · simp [Memory.place, Memory.readByte, hlt]
    · simp [Memory.place, Memory.readByte, hlt, hk, ih hrest]

theorem mem_erase_ne (m : Memory) (a : Word) : ∀ cell ∈ m.erase a, cell.1 ≠ a.toNat := by
  intro cell hc
  simp [Memory.erase] at hc
  exact hc.2

/-- What a byte write does to every byte read (R44, R45). -/
theorem readByte_writeByte (m : Memory) (a b : Word) (v : Byte) :
    (m.writeByte a v).readByte b = if b = a then v else m.readByte b := by
  unfold Memory.writeByte
  by_cases hba : b = a
  · subst hba
    by_cases hv : v = Memory.unlisted b
    · simp [hv, readByte_erase_same]
    · simp [hv, readByte_place_same _ _ _ (mem_erase_ne m b)]
  · by_cases hv : v = Memory.unlisted a
    · simp [hv, hba, readByte_erase_other m hba]
    · simp [hv, hba, readByte_place_other _ v hba, readByte_erase_other m hba]

/-! ### The canonical form -/

theorem wfFrom_mono {low low' : Nat} (h : low ≤ low') : ∀ {m : Memory}, m.wfFrom low' = true → m.wfFrom low = true := by
  intro m hm
  cases m with
  | nil => rfl
  | cons cell rest =>
    obtain ⟨k, v⟩ := cell
    simp only [Memory.wfFrom, Bool.and_eq_true, decide_eq_true_eq] at hm ⊢
    exact ⟨⟨⟨by omega, hm.1.1.2⟩, hm.1.2⟩, hm.2⟩

theorem wfFrom_erase {low : Nat} (a : Word) : ∀ {m : Memory}, m.wfFrom low = true → (m.erase a).wfFrom low = true := by
  intro m
  induction m generalizing low with
  | nil => intro _; rfl
  | cons cell rest ih =>
    obtain ⟨k, v⟩ := cell
    intro hm
    simp only [Memory.wfFrom, Bool.and_eq_true, decide_eq_true_eq] at hm
    have hrest := ih hm.2
    by_cases hk : k = a.toNat
    · have : Memory.erase ((k, v) :: rest) a = Memory.erase rest a := by simp [Memory.erase, hk]
      rw [this]
      exact wfFrom_mono (by omega) hrest
    · have : Memory.erase ((k, v) :: rest) a = (k, v) :: Memory.erase rest a := by simp [Memory.erase, hk]
      rw [this]
      simp only [Memory.wfFrom, Bool.and_eq_true, decide_eq_true_eq]
      exact ⟨hm.1, hrest⟩

theorem wfFrom_place {low : Nat} (a : Word) (v : Byte) (hv : v ≠ Memory.unlisted a) (hlow : low ≤ a.toNat) :
    ∀ {m : Memory}, m.wfFrom low = true → (∀ cell ∈ m, cell.1 ≠ a.toNat) → (m.place a v).wfFrom low = true := by
  intro m
  have ha := a.isLt
  induction m generalizing low with
  | nil =>
    intro _ _
    simp [Memory.place, Memory.wfFrom, hv, hlow]
    omega
  | cons cell rest ih =>
    obtain ⟨k, x⟩ := cell
    intro hm hne
    simp only [Memory.wfFrom, Bool.and_eq_true, decide_eq_true_eq] at hm
    have hk : k ≠ a.toNat := hne (k, x) (by simp)
    by_cases hlt : a.toNat < k
    · simp [Memory.place, hlt, Memory.wfFrom, hv, hlow, hm]
      omega
    · have hrest := ih (low := k + 1) (by omega) hm.2 (fun cell hc => hne cell (by simp [hc]))
      simp only [Memory.place, hlt, if_false, Memory.wfFrom, Bool.and_eq_true, decide_eq_true_eq]
      exact ⟨hm.1, hrest⟩

theorem wf_nil : Memory.wf [] = true := rfl

theorem wf_writeByte {m : Memory} (a : Word) (v : Byte) (h : m.wf = true) : (m.writeByte a v).wf = true := by
  unfold Memory.writeByte
  split
  · exact wfFrom_erase a h
  · rename_i hv
    exact wfFrom_place a v hv (by omega) (wfFrom_erase a h) (mem_erase_ne m a)

theorem wf_writeWord {m : Memory} (a w : Word) (h : m.wf = true) : (m.writeWord a w).wf = true :=
  wf_writeByte _ _ (wf_writeByte _ _ h)

theorem wf_load {s : State} (a : Word) (bs : List Byte) (h : s.mem.wf = true) : (s.load a bs).mem.wf = true := by
  induction bs generalizing s a with
  | nil => exact h
  | cons v rest ih => exact ih (s := s.store8 a v) (a + 1) (wf_writeByte a v h)

/-! ### A memory given by its bytes -/

/-- The entries that `Memory.ofBytes` lists among the addresses `low` to `low + n - 1`. -/
theorem ofBytes_range (f : Word → Byte) (low n : Nat) (hn : low + n ≤ 65536) :
    let entry := fun k => if f (BitVec.ofNat 16 k) = Memory.unlisted (BitVec.ofNat 16 k) then none
      else some (k, f (BitVec.ofNat 16 k))
    Memory.wfFrom low ((List.range' low n).filterMap entry) = true ∧
    ∀ a : Word, Memory.readByte ((List.range' low n).filterMap entry) a =
      if low ≤ a.toNat ∧ a.toNat < low + n then f a else Memory.unlisted a := by
  intro entry
  induction n generalizing low with
  | zero =>
    refine ⟨rfl, fun a => ?_⟩
    rw [if_neg (by omega)]
    rfl
  | succ n ih =>
    obtain ⟨hwf, hread⟩ := ih (low + 1) (by omega)
    by_cases he : f (BitVec.ofNat 16 low) = Memory.unlisted (BitVec.ofNat 16 low)
    · have hcons : (List.range' low (n + 1)).filterMap entry = (List.range' (low + 1) n).filterMap entry := by
        simp [List.range'_succ, entry, he]
      rw [hcons]
      refine ⟨wfFrom_mono (by omega) hwf, fun a => ?_⟩
      rw [hread a]
      by_cases ha : a.toNat = low
      · have : a = BitVec.ofNat 16 low := BitVec.eq_of_toNat_eq (by simp [ha]; omega)
        have h1 : ¬ (low + 1 ≤ a.toNat ∧ a.toNat < low + 1 + n) := by omega
        have h2 : low ≤ a.toNat ∧ a.toNat < low + (n + 1) := by omega
        rw [if_neg h1, if_pos h2, this, he]
      · by_cases h1 : low + 1 ≤ a.toNat ∧ a.toNat < low + 1 + n
        · rw [if_pos h1, if_pos (by omega)]
        · rw [if_neg h1, if_neg (by omega)]
    · have hcons : (List.range' low (n + 1)).filterMap entry =
          (low, f (BitVec.ofNat 16 low)) :: (List.range' (low + 1) n).filterMap entry := by
        simp [List.range'_succ, entry, he]
      rw [hcons]
      refine ⟨?_, fun a => ?_⟩
      · simp only [Memory.wfFrom, Bool.and_eq_true, decide_eq_true_eq]
        exact ⟨⟨⟨by omega, by omega⟩, by simpa using he⟩, hwf⟩
      · by_cases ha : low = a.toNat
        · have hb : a = BitVec.ofNat 16 low := BitVec.eq_of_toNat_eq (by simp [← ha]; omega)
          rw [if_pos (by omega)]
          simp only [Memory.readByte]
          rw [if_pos ha, ← hb]
        · simp only [Memory.readByte]
          rw [if_neg ha, hread a]
          by_cases h1 : low + 1 ≤ a.toNat ∧ a.toNat < low + 1 + n
          · rw [if_pos h1, if_pos (by omega)]
          · rw [if_neg h1, if_neg (by omega)]

theorem wf_ofBytes (f : Word → Byte) : (Memory.ofBytes f).wf = true := by
  have := (ofBytes_range f 0 65536 (by omega)).1
  rwa [← List.range_eq_range'] at this

theorem readByte_ofBytes (f : Word → Byte) (a : Word) : (Memory.ofBytes f).readByte a = f a := by
  have h := (ofBytes_range f 0 65536 (by omega)).2 a
  rw [← List.range_eq_range'] at h
  have ha := a.isLt
  rw [if_pos (by omega)] at h
  exact h

end Sys2Proof.Machine
end

