-- ==== Sys2Proof/Laws/PerInstr.lean ====
section
/-! SUPPORT. Statements for all instructions, one lemma per constructor. -/

/-- An instruction's encoding has the instruction's length and begins with its row's opcode byte (R59, R60, R62). -/
def Sys2Proof.Laws.EncodedForm.Statement (i : Sys2Proof.Instr) : Prop :=
  (Sys2Proof.encode i).length = i.length ∧ (Sys2Proof.encode i).head? = some i.handler.opcode

theorem Sys2Proof.Laws.EncodedForm.nop : Sys2Proof.Laws.EncodedForm.Statement .nop := ⟨rfl, rfl⟩

theorem Sys2Proof.Laws.EncodedForm.ldBcD16 (d16 : Sys2Proof.Word) : Sys2Proof.Laws.EncodedForm.Statement (.ldBcD16 d16) :=
  ⟨rfl, rfl⟩

theorem Sys2Proof.Laws.EncodedForm.ldBcA : Sys2Proof.Laws.EncodedForm.Statement .ldBcA := ⟨rfl, rfl⟩

theorem Sys2Proof.Laws.EncodedForm.incBc : Sys2Proof.Laws.EncodedForm.Statement .incBc := ⟨rfl, rfl⟩

theorem Sys2Proof.Laws.EncodedForm.incB : Sys2Proof.Laws.EncodedForm.Statement .incB := ⟨rfl, rfl⟩

theorem Sys2Proof.Laws.EncodedForm.decB : Sys2Proof.Laws.EncodedForm.Statement .decB := ⟨rfl, rfl⟩

theorem Sys2Proof.Laws.EncodedForm.ldBD8 (d8 : Sys2Proof.Byte) : Sys2Proof.Laws.EncodedForm.Statement (.ldBD8 d8) :=
  ⟨rfl, rfl⟩

theorem Sys2Proof.Laws.EncodedForm.rlca : Sys2Proof.Laws.EncodedForm.Statement .rlca := ⟨rfl, rfl⟩

theorem Sys2Proof.Laws.EncodedForm.ldA16Sp (a16 : Sys2Proof.Word) : Sys2Proof.Laws.EncodedForm.Statement (.ldA16Sp a16) :=
  ⟨rfl, rfl⟩
end

