-- ==== Sys2Proof/Laws/Tick.lean ====
section
/-! SUPPORT. Once, everything a step can do. -/

namespace Sys2Proof.Machine

/-- A step is turned away, or misses, or runs the instruction at PC; nothing else (R77, R79, R108). -/
theorem step_cases (s : State) :
    (∃ r, s.fault = some r ∧ step s = .fault (.latched r)) ∨
    (s.fault = none ∧ decodeOpcode (s.mem.readByte s.pc) = none ∧ step s = decodeMiss s) ∨
    (∃ i, s.fault = none ∧ decodeOpcode (s.mem.readByte s.pc) = some i.handler ∧ decode s.instrBytes = .ok (i, []) ∧
      step s = account i (exec i (s.advancePc 1))) := by
  cases hf : s.fault with
  | some r => left; exact ⟨r, rfl, by simp [step, tick, hf]⟩
  | none =>
    right
    rcases decode_instrBytes s with ⟨hd, hb⟩ | ⟨i, hd, hb⟩
    · left; exact ⟨rfl, hd, by simp [step, tick, hf, hb]⟩
    · right; exact ⟨i, rfl, hd, hb, by simp [step, tick, hf, hb]⟩

/-- An accounted answer is a next state only over a handler's next state, with its cost added (R78). -/
theorem account_next {i : Instr} {o : Answer} {t : State} (h : account i o = .next t) :
    ∃ u, o = .next u ∧ t = u.addCycles (i.handler.cost u.params) := by
  cases o with
  | next u => exact ⟨u, rfl, by simpa [account] using h.symm⟩
  | fault r => simp [account] at h
  | refused r => simp [account] at h

end Sys2Proof.Machine
end

