-- ==== Sys2Proof/Tests/Slice0.lean ====
section
/-! SUPPORT. The model's own tests: ill-formed parameters refused, every row's encoding, one or two steps per instruction with
results from 95_test_vectors.md, and a witness for the hypotheses of every statement that has some. -/

namespace Sys2Proof.Tests

open Sys2Proof Sys2Proof.Machine

/-! ### Ill-formed terms are refused -/

/-- R37: RESET_REGS.F must have bits 3..0 = 0. -/
theorem test_reset_f_low_nibble_refused : { defaultResetRegs with f := 0xB1 }.wellFormed = false := by decide

/-- D6: IO_PRESET is a map, so no address twice. -/
theorem test_io_preset_duplicate_refused : ioPresetWellFormed [(0xFF05, 1), (0xFF06, 2), (0xFF05, 3)] = false := by decide

/-- The parameters with either fault are refused, and the defaults accepted. -/
theorem test_power_on_wellFormed :
    { defaultPowerOn with regs := { defaultResetRegs with f := 0x0F } }.wellFormed = false ∧
    { defaultPowerOn with ioPreset := [(0xFFFF, 1), (0xFFFF, 1)] }.wellFormed = false ∧
    defaultPowerOn.wellFormed = true := by decide

/-! ### Decoding: words written out from 30_encoding.md R60 to R62 -/

theorem test_decode_nop : decode [0b00000000] = .ok (.nop, []) := rfl
/-- S8's bytes [0x01, 0x34, 0x12]: low byte first. -/
theorem test_decode_ldBcD16 : decode [0b00000001, 0x34, 0x12] = .ok (.ldBcD16 0x1234, []) := rfl
theorem test_decode_ldBcA : decode [0b00000010] = .ok (.ldBcA, []) := rfl
theorem test_decode_incBc : decode [0b00000011] = .ok (.incBc, []) := rfl
theorem test_decode_incB : decode [0b00000100] = .ok (.incB, []) := rfl
theorem test_decode_decB : decode [0b00000101] = .ok (.decB, []) := rfl
/-- L6's bytes, with a byte after them left over. -/
theorem test_decode_ldBD8 : decode [0b00000110, 0x7F, 0xAA] = .ok (.ldBD8 0x7F, [0xAA]) := rfl
theorem test_decode_rlca : decode [0b00000111] = .ok (.rlca, []) := rfl
/-- L8's bytes. -/
theorem test_decode_ldA16Sp : decode [0b00001000, 0x00, 0xC0] = .ok (.ldA16Sp 0xC000, []) := rfl

/-- R65: the first byte outside the table, R66's prefix, and the Game Boy's HALT and 0xFF, are no opcode. -/
theorem test_decode_unsupported :
    decode [0x09] = .error (.unsupportedOpcode 0x09) ∧ decode [0xCB, 0x00] = .error (.unsupportedOpcode 0xCB) ∧
    decode [0x76] = .error (.unsupportedOpcode 0x76) ∧ decode [0xFF] = .error (.unsupportedOpcode 0xFF) :=
  ⟨rfl, rfl, rfl, rfl⟩

/-- An operand byte that is not there is named. -/
theorem test_decode_missing_operand :
    decode [0x01, 0x34] = .error (.missingOperand .ld16ImmBc) ∧ decode [] = .error .noOpcode := ⟨rfl, rfl⟩

/-- The table's numbering: byte k is bits 8k+7 to 8k; an operand the table gives no bits reads as zeros. -/
theorem test_decodeTableWord :
    decodeTableWord 24 0x123401 = some (.ldBcD16 0x1234) ∧ decodeTableWord 8 0x08 = some (.ldA16Sp 0) ∧
    decodeTableWord 16 0x7F06 = some (.ldBD8 0x7F) ∧ decodeTableWord 8 0x09 = none := by decide

/-! ### One step on a small state -/

/-- A state at `pc` with an instruction's bytes there. -/
def at' (pc : Word) (bytes : List Byte) : State := ({ State.reset with pc := pc }).load pc bytes

/-- The state a step leaves, whether it completes or raises. -/
def after (o : Answer) : Option State :=
  match o with
  | .next t => some t
  | .fault (.unsupportedOpcode _ _ t) => some t
  | .fault (.latched _) => none
  | .refused _ => none

/-- I4: B = 0x7F, F = 0x10 gives B = 0x80, F = 0x30. -/
theorem test_incB_signed_edge :
    (after (step { at' 0x0200 [0x04] with b := 0x7F, f := 0x10 })).map (fun t => (t.b, t.f, t.pc)) =
      some (0x80, 0x30, 0x0201) := by decide

/-- I7: B = 0xFF, F = 0xD0 wraps to 0x00 with F = 0xB0: C kept. -/
theorem test_incB_wraps :
    (after (step { at' 0x0200 [0x04] with b := 0xFF, f := 0xD0 })).map (fun t => (t.b, t.f)) = some (0x00, 0xB0) := by decide

/-- D2: B = 0x00 wraps to 0xFF with F = 0x60. -/
theorem test_decB_wraps :
    (after (step { at' 0x0200 [0x05] with b := 0x00, f := 0x00 })).map (fun t => (t.b, t.f)) = some (0xFF, 0x60) := by decide

/-- D5: B = 0x02, F = 0x10 gives B = 0x01, F = 0x50. -/
theorem test_decB_no_borrow :
    (after (step { at' 0x0200 [0x05] with b := 0x02, f := 0x10 })).map (fun t => (t.b, t.f)) = some (0x01, 0x50) := by decide

/-- R1: A = 0x85 gives A = 0x0B, F = 0x10. -/
theorem test_rlca_rotates :
    (after (step { at' 0x0200 [0x07] with a := 0x85, f := 0x00 })).map (fun t => (t.a, t.f)) = some (0x0B, 0x10) := by decide

/-- R2: A = 0x00, F = 0xF0 clears Z although the result is zero. -/
theorem test_rlca_clears_z :
    (after (step { at' 0x0200 [0x07] with a := 0x00, f := 0xF0 })).map (fun t => (t.a, t.f)) = some (0x00, 0x00) := by decide

/-- W4: BC = 0x12FF, F = 0xB0 gives BC = 0x1300, F unchanged; cost 8. -/
theorem test_incBc_carries_into_b :
    (after (step { at' 0x0200 [0x03] with b := 0x12, c := 0xFF, f := 0xB0 })).map (fun t => (t.b, t.c, t.f, t.cycles)) =
      some (0x13, 0x00, 0xB0, 8) := by decide

/-- W3: BC = 0xFFFF gives 0x0000 and no Z. -/
theorem test_incBc_wraps :
    (after (step { at' 0x0200 [0x03] with b := 0xFF, c := 0xFF, f := 0x00 })).map (fun t => (t.b, t.c, t.f)) =
      some (0x00, 0x00, 0x00) := by decide

/-- L1 (S8): BC = 0x1234, PC = 0x0103, cycles 12. -/
theorem test_ldBcD16_at_0100 :
    (after (step (at' 0x0100 [0x01, 0x34, 0x12]))).map (fun t => (t.pair .bc, t.pc, t.cycles)) =
      some (0x1234, 0x0103, 12) := by decide

/-- L2: the operand bytes cross the top of the address space. -/
theorem test_ldBcD16_wraps :
    (after (step (at' 0xFFFE [0x01, 0xCD, 0xAB]))).map (fun t => (t.pair .bc, t.pc)) = some (0xABCD, 0x0001) := by decide

/-- L4: A = 0x5A to 0xC000, PC = 0x0201, cycles 8. -/
theorem test_ldBcA_stores :
    (after (step { at' 0x0200 [0x02] with a := 0x5A, b := 0xC0, c := 0x00 })).map
      (fun t => (t.mem.readByte 0xC000, t.pc, t.cycles)) = some (0x5A, 0x0201, 8) := by decide

/-- L5: the interrupt-enable byte is stored as an opaque byte. -/
theorem test_ldBcA_to_io :
    (after (step { at' 0x0200 [0x02] with a := 0x01, b := 0xFF, c := 0xFF })).map (fun t => t.mem.readByte 0xFFFF) =
      some 0x01 := by decide

/-- L6: B = 0x7F, C kept, BC = 0x7F34, PC = 0x0202, cycles 8. -/
theorem test_ldBD8 :
    (after (step { at' 0x0200 [0x06, 0x7F] with b := 0x00, c := 0x34 })).map (fun t => (t.pair .bc, t.pc, t.cycles)) =
      some (0x7F34, 0x0202, 8) := by decide

/-- L7: the operand of an instruction at 0xFFFF is at 0x0000. -/
theorem test_ldBD8_wraps :
    (after (step (at' 0xFFFF [0x06, 0x99]))).map (fun t => (t.b, t.pc)) = some (0x99, 0x0001) := by decide

/-- L9: SP = 0x1234 to 0xFFFF puts 0x34 there and 0x12 at 0x0000; cost 20 (L8). -/
theorem test_ldA16Sp_wraps :
    (after (step { at' 0x0400 [0x08, 0xFF, 0xFF] with sp := 0x1234 })).map
      (fun t => (t.mem.readByte 0xFFFF, t.mem.readByte 0x0000, t.pc, t.cycles)) = some (0x34, 0x12, 0x0403, 20) := by decide

/-- L10: over itself: the operand was read first. -/
theorem test_ldA16Sp_over_itself :
    (after (step { at' 0x0500 [0x08, 0x00, 0x05] with sp := 0xAABB })).map
      (fun t => (t.mem.readByte 0x0500, t.mem.readByte 0x0501, t.pc)) = some (0xBB, 0xAA, 0x0503) := by decide

/-- N2: NOP at 0xFFFF, cost 4. -/
theorem test_nop_wraps_pc :
    (after (step (at' 0xFFFF [0x00]))).map (fun t => (t.pc, t.cycles)) = some (0x0000, 4) := by decide

/-- N3: a counter of width 8 at 0xFE, one NOP: 0x02. -/
theorem test_nop_counter_width :
    (after (step { at' 0x0100 [0x00] with cycles := 0xFE, params := { defaultParams with counterWidth := some 8 } })).map
      (fun t => t.cycles) = some 0x02 := by decide

/-- T1: 0xFF at 0x0150 with cycles 100: the fault's record, PC = 0x0151, cycles kept, the latch set. -/
theorem test_unsupported_opcode :
    (match step { at' 0x0150 [0xFF] with cycles := 100 } with
      | .fault (.unsupportedOpcode o a t) =>
        some (o, a, t.pc, t.cycles, t.fault)
      | _ => none) = some (0xFF, 0x0150, 0x0151, 100, some (.unsupportedOpcode 0xFF 0x0150)) := by decide

/-- T2: after it no tick is admitted and the stored fault comes back. -/
theorem test_latched :
    (match step { at' 0x0100 [0x00] with fault := some (.unsupportedOpcode 0xFF 0x0150) } with
      | .fault (.latched r) => some r
      | _ => none) = some (.unsupportedOpcode 0xFF 0x0150) := by decide

/-- T4: at 0xFFFF PC wraps to 0x0000. -/
theorem test_unsupported_opcode_wraps :
    (after (step (at' 0xFFFF [0x09]))).map (fun t => t.pc) = some 0x0000 := by decide

/-- R58: LD (a16),SP's accesses in order. -/
theorem test_bus_order :
    busAccesses { at' 0x0400 [0x08, 0x00, 0xC0] with sp := 0xFFFE } =
      [.read 0x0400 0x08, .read 0x0401 0x00, .read 0x0402 0xC0, .write 0xC000 0xFE, .write 0xC001 0xFF] := by decide

/-! ### The host port -/

/-- V1, V4, V2: 0x1FF to B reads 0xFF; -1 to A reads 0xFF; 0xFF to F reads 0xF0. -/
theorem test_writeReg :
    (hostCall (.readReg 1) (hostCall (.writeReg 1 0x1FF) State.reset).2).1 = .byte 0xFF ∧
    (hostCall (.readReg 0) (hostCall (.writeReg 0 (-1)) State.reset).2).1 = .byte 0xFF ∧
    (hostCall (.readReg 5) (hostCall (.writeReg 5 0xFF) State.reset).2).1 = .byte 0xF0 := by decide

/-- V6: 0x12FF to AF reads 0x12F0. -/
theorem test_writePair_af : (hostCall (.readPair 3) (hostCall (.writePair 3 0x12FF) State.reset).2).1 = .word 0x12F0 := by decide

/-- V9, V10: Z set in F = 0x00 gives 0x80; C cleared in F = 0xF0 gives 0xE0. -/
theorem test_writeFlag :
    (hostCall (.writeFlag 0 true) { State.reset with f := 0x00 }).2.f = 0x80 ∧
    (hostCall (.writeFlag 3 false) { State.reset with f := 0xF0 }).2.f = 0xE0 := by decide

/-- V12: selector 10 names no register; its record has code 2 (R103). -/
theorem test_invalid_selector :
    (hostCall (.readReg 10) State.reset).1 = .invalidRegister 10 ∧
    faultCode (hostCall (.readReg 10) State.reset).2.fault = 2 := by decide

/-- M4: 0xABCD at 0xFFFF: 0xCD there, 0xAB at 0x0000. -/
theorem test_writeWord_wraps :
    ((hostCall (.writeWord 0xFFFF 0xABCD) State.reset).2.mem.readByte 0xFFFF,
      (hostCall (.writeWord 0xFFFF 0xABCD) State.reset).2.mem.readByte 0x0000) = (0xCD, 0xAB) := by decide

/-- D6's table and D7's zero, at reset: LCDC, the last sound row, and an address the table leaves out. -/
theorem test_boot_image :
    (State.reset.mem.readByte 0xFF40, State.reset.mem.readByte 0xFF26, State.reset.mem.readByte 0xFF41) =
      (0x91, 0xF1, 0x00) := by decide

/-- A table word placed at PC after reset runs as the next step. -/
theorem test_withFetchWord :
    (after (step (State.reset.withFetchWord 24 0x123401))).map (fun t => (t.pair .bc, t.pc)) = some (0x1234, 0x0103) := by decide

/-! ### Witnesses: the hypotheses of each statement can be met together -/

/-- Whether a step completes. -/
def completes (s : State) : Bool :=
  match step s with
  | .next _ => true
  | _ => false

/-- Whether a step raises UnsupportedOpcode. -/
def raises (s : State) : Bool :=
  match step s with
  | .fault (.unsupportedOpcode _ _ _) => true
  | _ => false

theorem next_of_completes {s : State} (h : completes s = true) : ∃ t, step s = .next t := by
  unfold completes at h
  cases hs : step s with
  | next t => exact ⟨t, rfl⟩
  | fault r => rw [hs] at h; cases h
  | refused r => rw [hs] at h; cases h

theorem raised_of_raises {s : State} (h : raises s = true) :
    ∃ opcode address t, step s = .fault (.unsupportedOpcode opcode address t) := by
  unfold raises at h
  cases hs : step s with
  | next t => rw [hs] at h; cases h
  | refused r => rw [hs] at h; cases h
  | fault r =>
    cases r with
    | unsupportedOpcode o a t => exact ⟨o, a, t, rfl⟩
    | latched r => rw [hs] at h; cases h

theorem witness_DecodeOfEncode : (Instr.ldA16Sp 0xFFFF).wellFormed = true := rfl

theorem witness_EncodeOfDecode : decode [0x08, 0xFF, 0xFF, 0x00] = .ok (.ldA16Sp 0xFFFF, [0x00]) := rfl

/-- One opcode byte before two different operands. -/
theorem witness_OpcodeFixesLength :
    decode (0x01 :: [0x00, 0x00]) = .ok (.ldBcD16 0x0000, []) ∧ decode (0x01 :: [0xFF, 0xFF, 0x07]) = .ok (.ldBcD16 0xFFFF, [0x07]) :=
  ⟨rfl, rfl⟩

/-- T3: 0xCB at 0x0200 with 0x00 after it; and the decoding pair of the last clause. -/
theorem witness_PrefixByteIsUnsupported :
    (at' 0x0200 [0xCB, 0x00]).fault = none ∧
    (at' 0x0200 [0xCB, 0x00]).mem.readByte (at' 0x0200 [0xCB, 0x00]).pc = 0xCB ∧
    decodeTableWord 8 0x06 = some (.ldBD8 0) ∧ decodeTableWord 16 0xFF06 = some (.ldBD8 0xFF) := by decide

/-- The first and last selector of an 8-bit register, F's, and both 16-bit ones: each clause, at its boundaries. -/
theorem witness_RegisterInterfaceWriteRead :
    ((0 : BitVec 4).toNat ≤ 7 ∧ (0 : BitVec 4) ≠ 5) ∧ ((7 : BitVec 4).toNat ≤ 7 ∧ (7 : BitVec 4) ≠ 5) ∧
    (5 : BitVec 4).toNat ≤ 9 ∧ (8 ≤ (8 : BitVec 4).toNat ∧ (8 : BitVec 4).toNat ≤ 9) ∧
    (8 ≤ (9 : BitVec 4).toNat ∧ (9 : BitVec 4).toNat ≤ 9) := by decide

/-- The lowest and the highest undefined selector, and the highest defined one, which the premise leaves out. -/
theorem witness_UndefinedSelectorRaisesInvalidRegister :
    10 ≤ (10 : BitVec 4).toNat ∧ 10 ≤ (15 : BitVec 4).toNat ∧ ¬ 10 ≤ (9 : BitVec 4).toNat := by decide

/-- A latched state, and a state with the latch none that an undefined selector latches. -/
theorem witness_HostCallsKeepLatchAndCounter :
    (hostCall (.readReg 10) { State.reset with fault := some (.invalidRegister 15) }).2.fault = some (.invalidRegister 15) ∧
    State.reset.fault = none ∧ (hostCall (.readReg 10) State.reset).2.fault = some (.invalidRegister 10) := by decide

/-- Two canonical memories with the same bytes, written in two orders. -/
theorem witness_CanonicalMemoryIsUnique :
    Memory.wf (Memory.writeByte (Memory.writeByte [] 0xFFFF 1) 0x0000 2) = true ∧
    Memory.wf (Memory.writeByte (Memory.writeByte [] 0x0000 2) 0xFFFF 1) = true ∧
    Memory.writeByte (Memory.writeByte [] 0xFFFF 1) 0x0000 2 = Memory.writeByte (Memory.writeByte [] 0x0000 2) 0xFFFF 1 := by decide

theorem witness_PowerOnConstructsState :
    defaultPowerOn.wellFormed = true ∧ ((0xFFFF, 0x00) : Word × Byte) ∈ defaultPowerOn.ioPreset ∧
    ∀ v, ((0x0000, v) : Word × Byte) ∉ defaultPowerOn.ioPreset := by
  refine ⟨by decide, by decide, ?_⟩
  intro v hv
  have : (0x0000 : Word) ∈ defaultPowerOn.ioPreset.map Prod.fst := List.mem_map.mpr ⟨_, hv, rfl⟩
  exact absurd this (by decide)

theorem witness_AluUnderAnyMask : Reg8.a ≠ .f ∧ Reg8.l ≠ .f := by decide

/-- Two NOPs across the top of the address space, with an unbounded counter, and with one of width 3 at its last multiple of 4. -/
theorem witness_NopRunAddsFourPerTick :
    (at' 0xFFFF [0x00, 0x00]).fault = none ∧
    (∀ k, k < 2 → (at' 0xFFFF [0x00, 0x00]).mem.readByte ((at' 0xFFFF [0x00, 0x00]).pc + BitVec.ofNat 16 k) = 0x00) ∧
    (at' 0xFFFF [0x00, 0x00]).params.counterWidth = none ∧
    let w := { at' 0xFFFF [0x00, 0x00] with cycles := 4, params := { defaultParams with counterWidth := some 3 } }
    w.fault = none ∧ (∀ k, k < 2 → w.mem.readByte (w.pc + BitVec.ofNat 16 k) = 0x00) ∧
    w.params.counterWidth = some 3 ∧ w.cycles < 2 ^ 3 := by decide

theorem witness_StepRunsDecodedInstruction :
    (at' 0xFFFE [0x08, 0xFF, 0xFF]).fault = none ∧
    decode [(at' 0xFFFE [0x08, 0xFF, 0xFF]).mem.readByte 0xFFFE, (at' 0xFFFE [0x08, 0xFF, 0xFF]).mem.readByte 0xFFFF,
      (at' 0xFFFE [0x08, 0xFF, 0xFF]).mem.readByte 0x0000] = .ok (.ldA16Sp 0xFFFF, []) ∧
    (Instr.ldA16Sp 0xFFFF).wellFormed = true :=
  ⟨rfl, rfl, rfl⟩

/-- The lowest and the highest opcode without a handler are raised; the highest with one is not. -/
theorem witness_UnsupportedOpcodeExactly :
    (∃ o a t, step (at' 0xFFFF [0x09]) = .fault (.unsupportedOpcode o a t)) ∧
    (∃ o a t, step (at' 0x0000 [0xFF]) = .fault (.unsupportedOpcode o a t)) ∧ completes (at' 0x0000 [0x08]) = true :=
  ⟨raised_of_raises (by decide), raised_of_raises (by decide), by decide⟩

theorem witness_LatchedFaultAdmitsNoTick :
    ({ State.reset with fault := some (.invalidRegister 10) } : State).fault = some (.invalidRegister 10) := rfl

/-- Both ways on: the last opcode and the first that is none. -/
theorem witness_ControlIsSequential :
    (at' 0x0100 [0x08]).fault = none ∧ completes (at' 0x0100 [0x08]) = true ∧
    (at' 0x0100 [0x09]).fault = none ∧ raises (at' 0x0100 [0x09]) = true := by decide

theorem witness_SupportedOpcodeCompletes :
    (at' 0x0100 [0x08]).fault = none ∧ ((at' 0x0100 [0x08]).mem.readByte (at' 0x0100 [0x08]).pc).toNat ≤ 8 := by decide

/-- Each opcode with an operand, the operand across the top of the address space. -/
theorem witness_OperandFetchIsWordRead :
    (at' 0xFFFF [0x06, 0x7F]).mem.readByte (at' 0xFFFF [0x06, 0x7F]).pc = 0x06 ∧
    (at' 0xFFFE [0x01, 0x34, 0x12]).mem.readByte (at' 0xFFFE [0x01, 0x34, 0x12]).pc = 0x01 ∧
    (at' 0xFFFE [0x08, 0x34, 0x12]).mem.readByte (at' 0xFFFE [0x08, 0x34, 0x12]).pc = 0x08 := by decide

theorem witness_LdBcD16Tick :
    (at' 0xFFFF [0x01, 0x34, 0x12]).fault = none ∧
    (at' 0xFFFF [0x01, 0x34, 0x12]).mem.readByte (at' 0xFFFF [0x01, 0x34, 0x12]).pc = 0x01 := by decide

/-- L10: the store overwrites the instruction itself. -/
theorem witness_LdA16SpReadsOperandBeforeStore :
    (at' 0x0500 [0x08, 0x00, 0x05]).fault = none ∧
    (at' 0x0500 [0x08, 0x00, 0x05]).mem.readByte (at' 0x0500 [0x08, 0x00, 0x05]).pc = 0x08 := by decide

/-- A = 0xFF and A = 0x00, for the two last clauses. -/
theorem witness_StoreIsSeenByNextFetch :
    let s := { at' 0x0200 [0x02] with a := 0xFF, b := 0x02, c := 0x01 }
    let u := { at' 0x0200 [0x02] with a := 0x00, b := 0x02, c := 0x01 }
    (s.fault = none ∧ s.mem.readByte s.pc = 0x02 ∧ s.pair .bc = s.pc + 1 ∧ 9 ≤ s.a.toNat) ∧
    (u.fault = none ∧ u.mem.readByte u.pc = 0x02 ∧ u.pair .bc = u.pc + 1 ∧ u.a.toNat ≤ 8) := by decide

theorem witness_BusAccessOrder :
    decode (at' 0xFFFE [0x08, 0x00, 0xC0]).instrBytes = .ok (.ldA16Sp 0xC000, []) ∧
    ∃ t, step (at' 0xFFFE [0x08, 0x00, 0xC0]) = .next t :=
  ⟨rfl, next_of_completes (by decide)⟩

/-- An invariant state with memory listed and a counter width, which completes, and one which faults. -/
theorem witness_EveryStepKeepsTheInvariant :
    (∃ s : State, s.Inv ∧ s.params.counterWidth = some 8 ∧ s.mem ≠ [] ∧ ∃ t, step s = .next t) ∧
    (∃ s : State, s.Inv ∧ ∃ o a t, step s = .fault (.unsupportedOpcode o a t)) := by
  refine ⟨⟨{ at' 0x0100 [0x08, 0xFF, 0xFF] with params := { defaultParams with counterWidth := some 8 } },
      ⟨by decide, by unfold State.fLowZero; decide, ?_⟩, rfl, by decide, next_of_completes (by decide)⟩,
    ⟨at' 0x0100 [0xFF], ⟨by decide, by unfold State.fLowZero; decide, ?_⟩, raised_of_raises (by decide)⟩⟩
  · intro w hw
    exact Nat.two_pow_pos w
  · intro w hw
    exact Nat.two_pow_pos w

theorem witness_EveryHostCallKeepsTheInvariant : State.reset.Inv :=
  ⟨rfl, rfl, fun w _ => Nat.two_pow_pos w⟩

/-- Power-on, a host call and a tick. -/
theorem witness_ReachableStatesMeetTheInvariant :
    Reachable (powerOn defaultPowerOn) ∧ Reachable (hostCall (.writeReg 5 0xFF) (powerOn defaultPowerOn)).2 := by
  have h := Reachable.powerOn defaultPowerOn (by decide)
  exact ⟨h, .hostCall _ _ h⟩

theorem witness_UntouchedRegistersStay : ∃ t, step (at' 0x0100 [0x01, 0xFF, 0xFF]) = .next t :=
  next_of_completes (by decide)

theorem witness_FlagOutsideTheMaskIsKept :
    (∃ t, step (at' 0x0100 [0x04]) = .next t) ∧
    decodeOpcode ((at' 0x0100 [0x04]).mem.readByte (at' 0x0100 [0x04]).pc) = some .inc8B ∧
    Handler.inc8B.flagMask.c = false ∧ Handler.nop.flagMask = ⟨false, false, false, false⟩ :=
  ⟨next_of_completes (by decide), by decide, rfl, rfl⟩

/-- Each store and a row that is none. -/
theorem witness_StoresWriteNoRegisterAndOthersNoMemory :
    ((∃ t, step (at' 0x0100 [0x02]) = .next t) ∧ (at' 0x0100 [0x02]).mem.readByte 0x0100 = 0x02) ∧
    ((∃ t, step (at' 0x0100 [0x08]) = .next t) ∧ (at' 0x0100 [0x08]).mem.readByte 0x0100 = 0x08) ∧
    ((∃ t, step (at' 0x0100 [0x07]) = .next t) ∧ (at' 0x0100 [0x07]).mem.readByte 0x0100 = 0x07) :=
  ⟨⟨next_of_completes (by decide), by decide⟩, ⟨next_of_completes (by decide), by decide⟩,
    ⟨next_of_completes (by decide), by decide⟩⟩

theorem witness_FlagsAreNeverRead :
    (∃ t, step (at' 0x0100 [0x05]) = .next t) ∧
    (∃ o a t, step (at' 0x0100 [0x76]) = .fault (.unsupportedOpcode o a t)) :=
  ⟨next_of_completes (by decide), raised_of_raises (by decide)⟩

theorem witness_UnusedRegistersAreNeverRead : ∃ t, step (at' 0x0100 [0x03]) = .next t :=
  next_of_completes (by decide)

theorem witness_CycleCounterIsOnlyAddedTo : ∃ t, step (at' 0x0100 [0x06, 0xFF]) = .next t :=
  next_of_completes (by decide)

/-- A run of one tick with an unbounded counter. -/
theorem witness_RunBoundsCounterAndProgramCounter :
    (∃ t, Host.Core.run core 1 (at' 0x0100 [0x08]) = .next t) ∧ (at' 0x0100 [0x08]).params.counterWidth = none := by
  obtain ⟨t, ht⟩ := next_of_completes (s := at' 0x0100 [0x08]) (by decide)
  refine ⟨⟨t, ?_⟩, by decide⟩
  have h : core.step (at' 0x0100 [0x08]) = .next t := ht
  simp only [Host.Core.run, h]

theorem witness_FaultEndsTheRunPrecisely :
    ∃ o a t, Host.Core.run core 1 (at' 0x0100 [0xFF]) = .fault (.unsupportedOpcode o a t) := by
  obtain ⟨o, a, t, ht⟩ := raised_of_raises (s := at' 0x0100 [0xFF]) (by decide)
  refine ⟨o, a, t, ?_⟩
  have h : core.step (at' 0x0100 [0xFF]) = .fault (.unsupportedOpcode o a t) := ht
  simp only [Host.Core.run, h]

/-- F of a state with its low nibble zero, and the bits at both ends of the flags' range. -/
theorem witness_FlagsAreTheHighNibbleOfF :
    State.reset.fLowZero ∧ ({ State.reset with f := 0xF0 } : State).fLowZero ∧ ({ State.reset with f := 0x00 } : State).fLowZero := by
  unfold State.fLowZero
  decide

/-- The instruction statements have no hypotheses, nor have the pair and flag interfaces; the clauses of FlagWriteTouchesOneBit,
PairWriteSplitsValue and PairsAreViewsOfRegisters have, at AF and beside it. -/
theorem witness_PairAndFlagClauses :
    Pair.af = .af ∧ Pair.hl ≠ .af ∧ (0 : Nat) ≠ Flag.c.bit ∧ State.reset.fLowZero := by
  refine ⟨by decide, by decide, by decide, ?_⟩
  unfold State.fLowZero
  decide

end Sys2Proof.Tests
end

section
/-! The register file: what a write of an integer stores, pairs as views of their registers, and the flags as bits of F
(10_state.md R17 to R29). Settles O7, O8, O9, O10, O11 and O53. -/

namespace Sys2Proof.Machine

/-! ### Integers reduced to a width, and the mask of F -/

/-- A host integer as a word of width `n`, negative ones in two's complement (D17). -/
theorem toNat_ofInt_eq_emod (n : Nat) (v : Int) : ((BitVec.ofInt n v).toNat : Int) = v % (2 ^ n : Nat) := by
  rw [BitVec.toNat_ofInt, Int.toNat_of_nonneg (Int.emod_nonneg v (by positivity))]

/-- Masking with 0xF0 rounds a byte down to a multiple of 16 (R18). -/
theorem toNat_and_F0 (v : Byte) : (v &&& 0xF0).toNat = v.toNat / 16 * 16 := by
  have hshift : v &&& (0xF0 : Byte) = (v >>> 4) <<< 4 := by
    apply BitVec.eq_of_getLsbD_eq
    intro i hi
    interval_cases i <;> simp
  have := v.isLt
  rw [hshift, BitVec.toNat_shiftLeft, BitVec.toNat_ushiftRight, Nat.shiftRight_eq_div_pow, Nat.shiftLeft_eq]
  omega

theorem fLowZero_iff_toNat_mod (s : State) : s.fLowZero ↔ s.f.toNat % 16 = 0 := by
  rw [State.fLowZero, ← BitVec.toNat_inj, BitVec.toNat_and]
  exact Eq.congr_left (Nat.and_two_pow_sub_one_eq_mod s.f.toNat 4)

/-- Whatever is written to F, its low nibble is zero (R18). -/
theorem fLowZero_setReg8_f (s : State) (v : Byte) : (s.setReg8 .f v).fLowZero := by
  rw [fLowZero_iff_toNat_mod, State.setReg8_f_f, toNat_and_F0]
  omega

/-- Settles O7: the write is `setReg8` of the reduced integer, and the mask rounds down to a multiple of 16. -/
theorem flagRegisterLowNibbleHardwired : Obligations.FlagRegisterLowNibbleHardwired := by
  intro s v
  refine ⟨BitVec.ofInt 8 v &&& 0xF0, ?_, rfl, fLowZero_setReg8_f s _⟩
  have hv : ((BitVec.ofInt 8 v).toNat : Int) = v % 256 := toNat_ofInt_eq_emod 8 v
  rw [toNat_and_F0]
  omega

/-- Settles O8: both writes store the integer reduced to 16 bits. -/
theorem programCounterAndStackPointerWrap : Obligations.ProgramCounterAndStackPointerWrap := by
  intro s v
  exact ⟨BitVec.ofInt 16 v, toNat_ofInt_eq_emod 16 v, rfl, rfl⟩

/-! ### Pairs -/

theorem Pair.hi_ne_f (p : Pair) : p.hi ≠ .f := by cases p <;> decide

theorem Pair.hi_ne_lo (p : Pair) : p.hi ≠ p.lo := by cases p <;> decide

/-- F is the low register of AF and of no other pair (R21). -/
theorem Pair.lo_eq_f_iff (p : Pair) : p.lo = .f ↔ p = .af := by cases p <;> decide

theorem pair_toNat (s : State) (p : Pair) :
    (s.pair p).toNat = (s.reg8 p.hi).toNat * 256 + (s.reg8 p.lo).toNat :=
  joinBytes_toNat _ _

theorem pair_setReg8_hi_toNat (s : State) (p : Pair) (v : Byte) :
    ((s.setReg8 p.hi v).pair p).toNat = v.toNat * 256 + (s.reg8 p.lo).toNat := by
  simp [pair_toNat, reg8_setReg8, p.hi_ne_f, p.hi_ne_lo.symm]

theorem pair_setReg8_lo_toNat (s : State) (p : Pair) (v : Byte) :
    ((s.setReg8 p.lo v).pair p).toNat =
      (s.reg8 p.hi).toNat * 256 + (if p = .af then v.toNat / 16 * 16 else v.toNat) := by
  simp only [pair_toNat, reg8_setReg8, p.hi_ne_lo, p.lo_eq_f_iff, if_true, if_false]
  split
  · rw [toNat_and_F0]
  · rfl

theorem reg8_hi_setPair_toNat (s : State) (p : Pair) (w : Word) :
    ((s.setPair p w).reg8 p.hi).toNat = w.toNat / 256 := by
  simp [reg8_setPair, p.hi_ne_lo, hiByte_toNat]

theorem reg8_lo_setPair_toNat (s : State) (p : Pair) (w : Word) :
    ((s.setPair p w).reg8 p.lo).toNat = if p = .af then w.toNat % 256 / 16 * 16 else w.toNat % 256 := by
  simp only [reg8_setPair, p.lo_eq_f_iff, if_true]
  split
  · rw [toNat_and_F0, loByte_toNat]
  · exact loByte_toNat w

/-- A pair write touches its two registers alone (R23). -/
theorem sameRegs8Outside_setPair (s : State) (p : Pair) (w : Word) :
    sameRegs8Outside [p.hi, p.lo] s (s.setPair p w) := by
  intro r hr
  obtain ⟨hhi, hlo⟩ : r ≠ p.hi ∧ r ≠ p.lo := by simpa using hr
  simp [reg8_setPair, hhi, hlo]

/-- Settles O9: a pair reads as `hi * 256 + lo`, and each register's and each pair's write is seen through that sum. -/
theorem pairsAreViewsOfRegisters : Obligations.PairsAreViewsOfRegisters := by
  refine ⟨fun p => by cases p <;> simp, ⟨rfl, rfl⟩, ⟨rfl, rfl⟩, ⟨rfl, rfl⟩, ⟨rfl, rfl⟩, ?_, ?_⟩
  · intro s
    exact ⟨pair_toNat s .bc, pair_toNat s .de, pair_toNat s .hl, pair_toNat s .af⟩
  · intro s p
    refine ⟨pair_toNat s p, pair_setReg8_hi_toNat s p, pair_setReg8_lo_toNat s p, ?_, ?_⟩
    · intro w
      exact ⟨reg8_hi_setPair_toNat s p w, reg8_lo_setPair_toNat s p w, s.setPair_pc p w, s.setPair_sp p w⟩
    · intro r v
      exact ⟨s.setReg8_pc r v, s.setReg8_sp r v⟩

/-- Settles O10: both halves of the reduced integer through their registers' reads, the frame from `reg8_setPair`. -/
theorem pairWriteSplitsValue : Obligations.PairWriteSplitsValue := by
  intro s p v
  have hv : ((BitVec.ofInt 16 v).toNat : Int) = v % 65536 := toNat_ofInt_eq_emod 16 v
  generalize BitVec.ofInt 16 v = w at hv
  have hhi := reg8_hi_setPair_toNat s p w
  have hlo := reg8_lo_setPair_toNat s p w
  have hpair := pair_toNat (s.setPair p w) p
  refine ⟨by omega, ?_, ?_, sameRegs8Outside_setPair s p w, s.setPair_pc p w, s.setPair_sp p w, ?_, ?_⟩
  · intro hp
    rw [if_neg hp] at hlo
    constructor <;> omega
  · intro hp
    rw [if_pos hp] at hlo
    constructor <;> omega
  · intro a
    rw [State.setPair_mem]
  · exact ⟨s.setPair_cycles p w, s.setPair_fault p w, s.setPair_params p w⟩

/-! ### Flags -/

theorem Flag.bit_lt (g : Flag) : g.bit < 8 := by cases g <;> decide

/-- A flag write sets the flag's bit of F to the value and keeps every other bit (R28). -/
theorem getLsbD_setFlag (s : State) (g : Flag) (v : Bool) (k : Nat) :
    (s.setFlag g v).f.getLsbD k = if k = g.bit then v else s.f.getLsbD k := by
  by_cases hk : k = g.bit
  · subst hk
    cases v <;> simp [State.setFlag, g.bit_lt]
  · have hmask : (1#8 <<< g.bit).getLsbD k = false := by
      rw [← BitVec.twoPow_eq, BitVec.getLsbD_twoPow, decide_eq_false (Ne.symm hk), Bool.and_false]
    have hwidth : s.f.getLsbD k = true → k < 8 := BitVec.lt_of_getLsbD
    cases v
    · simpa [State.setFlag, hmask, hk] using hwidth
    · simp [State.setFlag, hmask, hk]

/-- Settles O11: the write is known bit by bit, and it keeps the low nibble. -/
theorem flagWriteTouchesOneBit : Obligations.FlagWriteTouchesOneBit := by
  intro s g v
  refine ⟨rfl, ?_, ?_, rfl, ?_⟩
  · rw [flag_setFlag, if_pos rfl]
  · intro k hk
    rw [getLsbD_setFlag, if_neg hk]
  · intro hlow
    exact (setFlag_low s g v).trans hlow

/-! ### Flags as weights -/

/-- A flag's value as a digit is the binary digit of F at the flag's bit (R27). -/
theorem flag_toNat (s : State) (g : Flag) : (s.flag g).toNat = s.f.toNat / 2 ^ g.bit % 2 := by
  rw [State.flag, ← BitVec.testBit_toNat, Nat.toNat_testBit]

/-- A flag is set where what F holds up to the flag's bit reaches that bit's weight (R27). -/
theorem flag_eq_decide (s : State) (g : Flag) :
    s.flag g = decide (2 ^ g.bit ≤ s.f.toNat % 2 ^ (g.bit + 1)) := by
  have hdigit := flag_toNat s g
  have hlow : s.f.toNat % 2 ^ g.bit < 2 ^ g.bit := Nat.mod_lt _ (by positivity)
  rw [Nat.mod_pow_succ, ← hdigit]
  cases s.flag g <;> simp
  · exact hlow

/-- A number is what lies above a bit, the bit's digit, and what lies below it. -/
theorem eq_above_add_bit_add_below (n b : Nat) :
    n = n / 2 ^ (b + 1) * 2 ^ (b + 1) + (n.testBit b).toNat * 2 ^ b + n % 2 ^ b := by
  have hdiv := Nat.div_add_mod' n (2 ^ (b + 1))
  rw [Nat.mod_pow_succ] at hdiv
  rw [Nat.toNat_testBit]
  linarith

/-- A flag write replaces the flag's digit of F and keeps what lies above and below it (R28). -/
theorem setFlag_f_toNat (s : State) (g : Flag) (v : Bool) :
    (s.setFlag g v).f.toNat =
      s.f.toNat / 2 ^ (g.bit + 1) * 2 ^ (g.bit + 1) + v.toNat * 2 ^ g.bit + s.f.toNat % 2 ^ g.bit := by
  have hbits : ∀ k, (s.setFlag g v).f.toNat.testBit k = if k = g.bit then v else s.f.toNat.testBit k := by
    simpa only [BitVec.testBit_toNat] using getLsbD_setFlag s g v
  have habove : (s.setFlag g v).f.toNat / 2 ^ (g.bit + 1) = s.f.toNat / 2 ^ (g.bit + 1) := by
    apply Nat.eq_of_testBit_eq
    intro k
    rw [Nat.testBit_div_two_pow, Nat.testBit_div_two_pow, hbits, if_neg (by omega)]
  have hbelow : (s.setFlag g v).f.toNat % 2 ^ g.bit = s.f.toNat % 2 ^ g.bit := by
    apply Nat.eq_of_testBit_eq
    intro k
    rw [Nat.testBit_mod_two_pow, Nat.testBit_mod_two_pow, hbits]
    by_cases hk : k = g.bit <;> simp [hk]
  rw [eq_above_add_bit_add_below (s.setFlag g v).f.toNat g.bit, habove, hbelow, hbits, if_pos rfl]

/-- Where F's low nibble is zero, F is the sum of the weights of the flags that are set (R18, R29). -/
theorem f_toNat_eq_sum_flags (s : State) (hlow : s.fLowZero) :
    s.f.toNat = (s.flag .z).toNat * 128 + (s.flag .n).toNat * 64 + (s.flag .h).toNat * 32 + (s.flag .c).toNat * 16 := by
  have hbyte := s.f.isLt
  have hmod := (fLowZero_iff_toNat_mod s).mp hlow
  simp only [flag_toNat, Flag.bit]
  omega

/-- Settles O53: reads and writes at each flag's own weight; Z's is the top one, so nothing of F lies above it. -/
theorem flagsAreTheHighNibbleOfF : Obligations.FlagsAreTheHighNibbleOfF := by
  intro s
  have hread := flag_eq_decide s
  have hwrite := setFlag_f_toNat s
  have hmod : s.f.toNat % 256 = s.f.toNat := Nat.mod_eq_of_lt s.f.isLt
  have hdiv : s.f.toNat / 256 = 0 := Nat.div_eq_of_lt s.f.isLt
  refine ⟨⟨?_, hread .n, hread .h, hread .c⟩, ?_, f_toNat_eq_sum_flags s⟩
  · simpa [Flag.bit, hmod] using hread .z
  · intro v
    refine ⟨?_, hwrite .n v, hwrite .h v, hwrite .c v⟩
    simpa [Flag.bit, hdiv] using hwrite .z v

end Sys2Proof.Machine
end

section
/-! The memory port (20_memory.md R44, R45). Settles O14. -/

namespace Sys2Proof.Machine

/-! ### A byte read after a byte stored -/

theorem readByte_store8_same (s : State) (a : Word) (v : Byte) : (s.store8 a v).mem.readByte a = v := by
  rw [State.store8_mem, readByte_writeByte, if_pos rfl]

theorem readByte_store8_other (s : State) {a b : Word} (v : Byte) (h : b ≠ a) :
    (s.store8 a v).mem.readByte b = s.mem.readByte b := by
  rw [State.store8_mem, readByte_writeByte, if_neg h]

/-! ### The byte calls of the port -/

theorem hostCall_readByte (s : State) (a : Word) : hostCall (.readByte a) s = (.byte (s.mem.readByte a), s) := rfl

theorem hostCall_writeByte (s : State) (a : Word) (v : Int) :
    hostCall (.writeByte a v) s = (.done, s.store8 a (BitVec.ofInt 8 v)) := rfl

/-- Settles O14: the write stores the integer reduced to 8 bits, and each read is a read after that store. -/
theorem byteWriteThenRead : Obligations.ByteWriteThenRead := by
  intro s a v
  rw [hostCall_writeByte]
  refine ⟨⟨BitVec.ofInt 8 v, toNat_ofInt_eq_emod 8 v, ?_⟩, ?_, rfl⟩
  · rw [hostCall_readByte, readByte_store8_same]
  · intro b hb
    rw [hostCall_readByte, hostCall_readByte, readByte_store8_other s _ hb]

end Sys2Proof.Machine
end

section
/-! Which bytes are opcodes, what the opcode byte fixes, and the tick on a byte that is none (30_encoding.md R59, R65, R66;
60_exceptions.md R104). Settles O3, O4 and O31. -/

namespace Sys2Proof

/-! ### Which bytes are opcodes -/

/-- The opcode column counts from 0 to 8 (R62). -/
theorem opcodeTable_opcodes : opcodeTable.map Handler.opcode = (List.range 9).map (BitVec.ofNat 8) := rfl

theorem Handler.opcode_toNat_lt (h : Handler) : h.opcode.toNat < 9 := by cases h <;> decide

theorem exists_opcode_eq {b : Byte} (hb : b.toNat < 9) : ∃ h : Handler, h.opcode = b := by
  have hmem : b ∈ opcodeTable.map Handler.opcode := by
    rw [opcodeTable_opcodes]
    exact List.mem_map.mpr ⟨b.toNat, List.mem_range.mpr hb, by simp⟩
  obtain ⟨h, -, hh⟩ := List.mem_map.mp hmem
  exact ⟨h, hh⟩

/-- The bytes with no handler are 0x09 to 0xFF (R65). -/
theorem decodeOpcode_eq_none_iff {b : Byte} : decodeOpcode b = none ↔ 9 ≤ b.toNat := by
  constructor
  · intro hnone
    by_contra hlt
    obtain ⟨h, rfl⟩ := exists_opcode_eq (Nat.lt_of_not_le hlt)
    rw [decodeOpcode_opcode] at hnone
    cases hnone
  · intro hge
    cases hd : decodeOpcode b with
    | none => rfl
    | some h =>
      rw [opcode_of_decodeOpcode hd] at hge
      exact absurd h.opcode_toNat_lt (Nat.not_lt.mpr hge)

/-! ### What the opcode byte fixes -/

theorem decode_cons_of_none {b : Byte} (hd : decodeOpcode b = none) (rest : List Byte) :
    decode (b :: rest) = .error (.unsupportedOpcode b) := by
  simp [decode, hd]

/-- Bytes that decode are of the row of their opcode byte, and that row fixes how many of them are used (R59). -/
theorem decode_cons_ok {b : Byte} {bytes rest : List Byte} {i : Instr} (h : decode (b :: bytes) = .ok (i, rest)) :
    decodeOpcode b = some i.handler ∧ bytes.length = i.handler.format.operandLength + rest.length := by
  cases hd : decodeOpcode b with
  | none =>
    rw [decode_cons_of_none hd] at h
    cases h
  | some row =>
    have ha : assemble row bytes = .ok (i, rest) := by simpa [decode, hd] using h
    obtain ⟨rfl, hlen⟩ := assemble_ok ha
    exact ⟨rfl, hlen⟩

theorem handler_eq_of_decode_cons {b : Byte} {bytes bytes' rest rest' : List Byte} {i j : Instr}
    (hi : decode (b :: bytes) = .ok (i, rest)) (hj : decode (b :: bytes') = .ok (j, rest')) : i.handler = j.handler :=
  Option.some.inj ((decode_cons_ok hi).1.symm.trans (decode_cons_ok hj).1)

theorem length_eq_of_handler_eq {i j : Instr} (h : i.handler = j.handler) : i.length = j.length := by
  rw [Instr.length, Instr.length, h]

theorem Format.operandLength_le_two (fmt : Format) : fmt.operandLength ≤ 2 := by cases fmt <;> decide

theorem Instr.length_bounds (i : Instr) : 1 ≤ i.length ∧ i.length ≤ 3 := by
  have := i.handler.format.operandLength_le_two
  rw [Instr.length]
  omega

/-- Settles O3: the opcode's row gives the number of operand bytes used, and two decodings of one opcode byte have one row. -/
theorem opcodeFixesLength : Obligations.OpcodeFixesLength := by
  intro b bytes i rest hi
  obtain ⟨-, hlen⟩ := decode_cons_ok hi
  obtain ⟨hpos, hle⟩ := i.length_bounds
  refine ⟨?_, hpos, hle, ?_⟩
  · rw [hlen, Instr.length]
    omega
  · intro bytes' j rest' hj
    exact length_eq_of_handler_eq (handler_eq_of_decode_cons hj hi)

end Sys2Proof

namespace Sys2Proof.Machine

variable {s : State}

/-! ### The tick on a byte that is no opcode -/

/-- After an unsupported opcode no byte is read (R66). -/
theorem instrBytes_of_unsupported (hd : decodeOpcode (s.mem.readByte s.pc) = none) :
    s.instrBytes = [s.mem.readByte s.pc] := by
  simp [State.instrBytes, operandLength, hd, State.fetchBytes]

theorem busAccesses_of_unsupported (hf : s.fault = none) (hd : decodeOpcode (s.mem.readByte s.pc) = none) :
    busAccesses s = [.read s.pc (s.mem.readByte s.pc)] := by
  simp [busAccesses, hf, instrBytes_of_unsupported hd, decode_cons_of_none hd, readsFrom]

/-- What a decode miss leaves where the latch was none (R104). -/
theorem decodeMiss_eq (hf : s.fault = none) :
    decodeMiss s = .fault (.unsupportedOpcode (s.mem.readByte s.pc) s.pc
      { s with pc := s.pc + 1, fault := some (.unsupportedOpcode (s.mem.readByte s.pc) s.pc) }) := by
  simp [decodeMiss, State.latchFault, State.advancePc, State.setPc, hf]

/-- The tick of an unsupported opcode is the decode miss, and leaves just that (R77, R104). -/
theorem step_of_unsupported (hf : s.fault = none) (hd : decodeOpcode (s.mem.readByte s.pc) = none) :
    step s = .fault (.unsupportedOpcode (s.mem.readByte s.pc) s.pc
      { s with pc := s.pc + 1, fault := some (.unsupportedOpcode (s.mem.readByte s.pc) s.pc) }) := by
  rcases step_cases s with ⟨r, hr, -⟩ | ⟨-, -, hstep⟩ | ⟨i, -, hi, -⟩
  · rw [hf] at hr
    cases hr
  · exact hstep.trans (decodeMiss_eq hf)
  · rw [hd] at hi
    cases hi

/-- Every handler completes (R82). -/
theorem exists_exec_eq_next (i : Instr) (s : State) : ∃ t, exec i s = .next t := by
  cases i <;> exact ⟨_, rfl⟩

/-- Only a decode miss raises UnsupportedOpcode: a latched state answers the latch, and a handler completes. -/
theorem unsupported_of_step_fault {opcode : Byte} {address : Word} {t : State}
    (h : step s = .fault (.unsupportedOpcode opcode address t)) :
    s.fault = none ∧ decodeOpcode (s.mem.readByte s.pc) = none := by
  rcases step_cases s with ⟨r, -, hstep⟩ | ⟨hf, hd, -⟩ | ⟨i, -, -, -, hstep⟩
  · rw [hstep] at h
    cases h
  · exact ⟨hf, hd⟩
  · obtain ⟨u, hu⟩ := exists_exec_eq_next i (s.advancePc 1)
    rw [hstep, hu] at h
    cases h

/-- Settles O4: 0xCB is at least 9, so it has no row, and everything said of an unsupported opcode is true of it. -/
theorem prefixByteIsUnsupported : Obligations.PrefixByteIsUnsupported := by
  have hcb : decodeOpcode 0xCB = none := decodeOpcode_eq_none_iff.mpr (by decide)
  refine ⟨decode_cons_of_none hcb, ?_, ?_⟩
  · intro s hf hbyte
    have hd : decodeOpcode (s.mem.readByte s.pc) = none := by rw [hbyte, hcb]
    have hbus := busAccesses_of_unsupported hf hd
    have hstep := step_of_unsupported hf hd
    rw [hbyte] at hbus hstep
    exact ⟨hbus, _, hstep⟩
  · intro b bytes bytes' i j rest rest' hi hj
    have hrow := handler_eq_of_decode_cons hi hj
    exact ⟨hrow, length_eq_of_handler_eq hrow⟩

/-- Settles O31: the tick raises it exactly on a byte with no row, and `step_of_unsupported` is all that it does there. -/
theorem unsupportedOpcodeExactly : Obligations.UnsupportedOpcodeExactly := by
  refine ⟨fun s opcode address t => ⟨?_, ?_⟩, ?_⟩
  · intro h
    obtain ⟨hf, hd⟩ := unsupported_of_step_fault h
    rw [step_of_unsupported hf hd] at h
    cases h
    exact ⟨hf, rfl, decodeOpcode_eq_none_iff.mp hd, rfl, rfl⟩
  · rintro ⟨hf, rfl, hge, rfl, rfl⟩
    exact step_of_unsupported hf (decodeOpcode_eq_none_iff.mpr hge)
  · intro i s r
    obtain ⟨t, ht⟩ := exists_exec_eq_next i s
    rw [ht]
    exact nofun

end Sys2Proof.Machine
end

section
/-! The 8-bit ALU: its operations in exact arithmetic, and the three instructions that run it (41_alu8.md R85 to R90). Settles
O20, O21, O22 and O23. -/

namespace Sys2Proof.Machine

/-! ### Bytes as numbers -/

/-- Masking with 0x0F keeps a byte's low nibble. -/
theorem toNat_and_0F (v : Byte) : (v &&& 0x0F#8).toNat = v.toNat % 16 :=
  Nat.and_two_pow_sub_one_eq_mod v.toNat 4

theorem beq_zero_eq_decide_toNat (v : Byte) : (v == 0) = decide (v.toNat = 0) := by
  rw [beq_eq_decide, decide_eq_decide]
  exact BitVec.toNat_inj.symm

/-! ### The operations in exact arithmetic (R86) -/

section Operations

variable (v : Byte)

theorem inc8_res_toNat : (inc8 v).res.toNat = (v.toNat + 1) % 256 :=
  BitVec.toNat_add v 1

theorem inc8_z : (inc8 v).z = decide ((v.toNat + 1) % 256 = 0) := by
  rw [← inc8_res_toNat]
  exact beq_zero_eq_decide_toNat _

/-- H of INC8 is the carry out of bit 3. -/
theorem inc8_h : (inc8 v).h = decide (v.toNat % 16 + 1 > 15) := by
  rw [← toNat_and_0F]
  rfl

theorem dec8_res_toNat : (dec8 v).res.toNat = (v.toNat + 255) % 256 := by
  rw [Nat.add_comm]
  exact BitVec.toNat_sub v 1

theorem dec8_z : (dec8 v).z = decide ((v.toNat + 255) % 256 = 0) := by
  rw [← dec8_res_toNat]
  exact beq_zero_eq_decide_toNat _

/-- H of DEC8 is set where the low nibble has to borrow (C2). -/
theorem dec8_h : (dec8 v).h = decide (v.toNat % 16 = 0) := by
  rw [← toNat_and_0F]
  exact beq_zero_eq_decide_toNat _

/-- The two parts of a rotated byte share no bit, so joining them adds them. -/
theorem rlc8_res_toNat : (rlc8 v).res.toNat = v.toNat * 2 % 256 + v.toNat / 128 := by
  have hdisjoint : (v <<< 1) &&& (v >>> 7) = 0#8 := by
    apply BitVec.eq_of_getLsbD_eq
    intro i hi
    interval_cases i <;> simp
  have hsum : (rlc8 v).res = (v <<< 1) + (v >>> 7) := (BitVec.add_eq_or_of_and_eq_zero _ _ hdisjoint).symm
  have hbyte := v.isLt
  rw [hsum, BitVec.toNat_add, BitVec.toNat_shiftLeft, BitVec.toNat_ushiftRight, Nat.shiftLeft_eq,
    Nat.shiftRight_eq_div_pow]
  omega

/-- C of RLC8 is the old bit 7. -/
theorem rlc8_c : (rlc8 v).c = some (decide (128 ≤ v.toNat)) := by
  have hbit : v.getLsbD 7 = decide (128 ≤ v.toNat) := by
    rw [← BitVec.msb_eq_getLsbD_last v, BitVec.msb_eq_decide]
  rw [← hbit]
  rfl

end Operations

/-! ### The operations under a mask (R85) -/

theorem reg8_alu8_same (s : State) {r : Reg8} (hr : r ≠ .f) (op : Byte → AluResult) (m : FlagMask) :
    (s.alu8 r op m).reg8 r = (op (s.reg8 r)).res := by
  rw [reg8_alu8 s r op m hr r hr, if_pos rfl]

/-- Settles O20: register and flags of an ALU instruction by the laws of `alu8`, each operation's values in exact arithmetic. -/
theorem aluUnderAnyMask : Obligations.AluUnderAnyMask := by
  intro s r m hr
  have hres := fun op => reg8_alu8_same s hr op m
  have hflag := fun op => flag_alu8 s r op m hr
  refine ⟨⟨?_, ?_, ?_, ?_, ?_⟩, ⟨?_, ?_, ?_, ?_, ?_⟩, ⟨?_, ?_, ?_, ?_, ?_⟩⟩
  · rw [hres, inc8_res_toNat]
  · rw [hflag, inc8_z]
  · exact hflag inc8 .n
  · rw [hflag, inc8_h]
  · exact hflag inc8 .c
  · rw [hres, dec8_res_toNat]
  · rw [hflag, dec8_z]
  · exact hflag dec8 .n
  · rw [hflag, dec8_h]
  · exact hflag dec8 .c
  · rw [hres, rlc8_res_toNat]
  · exact hflag rlc8 .z
  · exact hflag rlc8 .n
  · exact hflag rlc8 .h
  · rw [hflag, rlc8_c]

/-! ### The instructions: the general statement at the opcode's own mask, and the frame (R87 to R90) -/

/-- An ALU instruction keeps F's low nibble, and touches its register and F alone (R90). -/
theorem alu8_frame (s : State) {r : Reg8} (hr : r ≠ .f) (op : Byte → AluResult) (m : FlagMask) :
    (s.alu8 r op m).f.toNat % 16 = s.f.toNat % 16 ∧ sameRegs8Outside [r, .f] s (s.alu8 r op m) ∧
      (s.alu8 r op m).pc = s.pc ∧ (s.alu8 r op m).sp = s.sp ∧ sameMemory s (s.alu8 r op m) ∧
      sameControl s (s.alu8 r op m) := by
  refine ⟨?_, ?_, alu8_pc s r op m, alu8_sp s r op m, ?_, ?_⟩
  · rw [← toNat_and_0F, alu8_low s r op m hr, toNat_and_0F]
  · intro q hq
    obtain ⟨hqr, hqf⟩ : q ≠ r ∧ q ≠ .f := by simpa using hq
    rw [reg8_alu8 s r op m hr q hqf, if_neg hqr]
  · intro a
    rw [alu8_mem]
  · exact ⟨alu8_cycles s r op m, alu8_fault s r op m, alu8_params s r op m⟩

/-- Settles O21: INC8 on B under the mask Z N H. -/
theorem incBResultAndFrame : Obligations.IncBResultAndFrame := by
  intro s
  obtain ⟨⟨hres, hz, hn, hh, hc⟩, -, -⟩ := aluUnderAnyMask s .b Handler.inc8B.flagMask (by decide)
  refine ⟨_, rfl, hres, ?_, hn, ?_, hc, alu8_frame s (by decide) inc8 _⟩
  · rw [← BitVec.toNat_inj, hz, ← hres]
    exact decide_eq_true_iff
  · rw [hh]
    exact decide_eq_true_iff

/-- Settles O22: DEC8 on B under the mask Z N H. -/
theorem decBResultAndFrame : Obligations.DecBResultAndFrame := by
  intro s
  obtain ⟨-, ⟨hres, hz, hn, hh, hc⟩, -⟩ := aluUnderAnyMask s .b Handler.dec8B.flagMask (by decide)
  refine ⟨_, rfl, hres, ?_, hn, ?_, hc, alu8_frame s (by decide) dec8 _⟩
  · rw [← BitVec.toNat_inj, hz, ← hres]
    exact decide_eq_true_iff
  · rw [hh]
    exact decide_eq_true_iff

/-- Settles O23: RLC8 on A under the full mask. -/
theorem rlcaResultAndFrame : Obligations.RlcaResultAndFrame := by
  intro s
  obtain ⟨-, -, hres, hz, hn, hh, hc⟩ := aluUnderAnyMask s .a Handler.rlc8A.flagMask (by decide)
  refine ⟨_, rfl, hres, ?_, hz, hn, hh, alu8_frame s (by decide) rlc8 _⟩
  rw [hc]
  exact decide_eq_true_iff

end Sys2Proof.Machine
end

section
/-! The 16-bit incrementer, and INC BC that runs it (42_alu16.md R91, R92). Settles O24. -/

namespace Sys2Proof.Machine

/-! ### A pair as one 16-bit register -/

/-- What is written to a pair reads back whole, where the mask of F plays no part (R23). -/
theorem pair_setPair_same (s : State) {p : Pair} (hp : p ≠ .af) (w : Word) : (s.setPair p w).pair p = w := by
  rw [State.pair, reg8_setPair, reg8_setPair, if_neg p.hi_ne_lo, if_pos rfl, if_pos rfl,
    if_neg (mt p.lo_eq_f_iff.mp hp), joinBytes_hi_lo]

/-- A pair write touches 8-bit registers alone; which ones, `sameRegs8Outside_setPair` says (R23). -/
theorem setPair_frame (s : State) (p : Pair) (w : Word) :
    (s.setPair p w).pc = s.pc ∧ (s.setPair p w).sp = s.sp ∧ sameMemory s (s.setPair p w) ∧
      sameControl s (s.setPair p w) := by
  refine ⟨s.setPair_pc p w, s.setPair_sp p w, ?_, s.setPair_cycles p w, s.setPair_fault p w, s.setPair_params p w⟩
  intro a
  rw [State.setPair_mem]

/-! ### INC BC -/

/-- INC16 in exact arithmetic (R91). -/
theorem inc16_toNat (v : Word) : (inc16 v).toNat = (v.toNat + 1) % 65536 :=
  BitVec.toNat_add v 1

/-- Settles O24: INC BC is a write of the incremented pair, so its result is read back through the pair, and its frame is that of
a pair write; F is none of BC's two registers. -/
theorem incBcResultAndFrame : Obligations.IncBcResultAndFrame := by
  refine ⟨inc16_toNat, fun s => ?_⟩
  have hresult := pair_toNat (s.setPair .bc (inc16 (s.pair .bc))) .bc
  rw [pair_setPair_same s (by decide), inc16_toNat, pair_toNat] at hresult
  exact ⟨_, rfl, hresult.symm, sameRegs8Outside_setPair s .bc _, State.setPair_bc_f s _, setPair_frame s .bc _⟩

end Sys2Proof.Machine
end

section
/-! What a load or store changes besides its result: PC past the operand bytes, memory alone, one register alone; and a word read
after a word stored (20_memory.md R47, R48; 40_dispatch.md R75, R76). -/

namespace Sys2Proof.Machine

/-! ### PC past the operand bytes -/

/-- Two advances of PC are one advance by their sum. -/
theorem advancePc_advancePc (s : State) (m n : Nat) : (s.advancePc m).advancePc n = s.advancePc (m + n) := by
  simp only [State.advancePc, State.setPc, BitVec.ofNat_add, BitVec.add_assoc]

/-- The opcode's advance and the handler's together (R75, R76). -/
theorem skipOperands_advancePc (s : State) (n : Nat) (fmt : Format) :
    (s.advancePc n).skipOperands fmt = s.advancePc (n + fmt.operandLength) :=
  advancePc_advancePc s n fmt.operandLength

theorem skipOperands_pc_toNat (s : State) (fmt : Format) :
    (s.skipOperands fmt).pc.toNat = (s.pc.toNat + fmt.operandLength) % 65536 := by
  simp [State.skipOperands]

/-- A handler's frame on 8-bit registers does not depend on its advance of PC. -/
theorem sameRegs8Outside_of_skipOperands {s t : State} {fmt : Format} {written : List Reg8}
    (h : sameRegs8Outside written (s.skipOperands fmt) t) : sameRegs8Outside written s t := by
  intro r hr
  rw [h r hr, State.skipOperands, reg8_advancePc]

/-! ### One register written, or memory alone -/

theorem sameRegs8Outside_setReg8 (s : State) (r : Reg8) (v : Byte) : sameRegs8Outside [r] s (s.setReg8 r v) := by
  intro q hq
  rw [reg8_setReg8, if_neg (by simpa using hq)]

/-- A register write leaves PC, SP, memory and control as they are (R17). -/
theorem setReg8_frame (s : State) (r : Reg8) (v : Byte) :
    (s.setReg8 r v).pc = s.pc ∧ (s.setReg8 r v).sp = s.sp ∧ sameMemory s (s.setReg8 r v) ∧
      sameControl s (s.setReg8 r v) := by
  refine ⟨s.setReg8_pc r v, s.setReg8_sp r v, ?_, s.setReg8_cycles r v, s.setReg8_fault r v, s.setReg8_params r v⟩
  intro a
  rw [State.setReg8_mem]

theorem sameRegs8Outside_store8 (s : State) (a : Word) (v : Byte) : sameRegs8Outside [] s (s.store8 a v) :=
  fun r _ => reg8_store8 s r a v

theorem sameRegs8Outside_store16 (s : State) (a w : Word) : sameRegs8Outside [] s (s.store16 a w) :=
  fun r _ => reg8_store16 s r a w

theorem sameMemoryOutside_store8 (s : State) (a : Word) (v : Byte) : sameMemoryOutside [a] s (s.store8 a v) := by
  intro b hb
  exact readByte_store8_other s v (by simpa using hb)

/-! ### A word read, and read after a word stored -/

theorem loByte_readWord (m : Memory) (a : Word) : loByte (m.readWord a) = m.readByte a :=
  loByte_joinBytes _ _

theorem hiByte_readWord (m : Memory) (a : Word) : hiByte (m.readWord a) = m.readByte (a + 1) :=
  hiByte_joinBytes _ _

theorem readByte_writeWord (m : Memory) (a b w : Word) :
    (m.writeWord a w).readByte b = if b = a + 1 then hiByte w else if b = a then loByte w else m.readByte b := by
  rw [Memory.writeWord, readByte_writeByte, readByte_writeByte]

/-- The low byte is not overwritten by the high one: the next address is another one, 0xFFFF's too (D4). -/
theorem readByte_writeWord_low (m : Memory) (a w : Word) : (m.writeWord a w).readByte a = loByte w := by
  have hne : a ≠ a + 1 := by bv_omega
  rw [readByte_writeWord, if_neg hne, if_pos rfl]

theorem readByte_writeWord_high (m : Memory) (a w : Word) : (m.writeWord a w).readByte (a + 1) = hiByte w := by
  rw [readByte_writeWord, if_pos rfl]

theorem readWord_writeWord_same (m : Memory) (a w : Word) : (m.writeWord a w).readWord a = w := by
  rw [Memory.readWord, readByte_writeWord_high, readByte_writeWord_low, joinBytes_hi_lo]

theorem sameMemoryOutside_store16 (s : State) (a w : Word) : sameMemoryOutside [a, a + 1] s (s.store16 a w) := by
  intro b hb
  obtain ⟨hlow, hhigh⟩ : b ≠ a ∧ b ≠ a + 1 := by simpa using hb
  rw [State.store16_mem, readByte_writeWord, if_neg hhigh, if_neg hlow]

end Sys2Proof.Machine
end

section
/-! The handlers of the loads and stores (43_loads.md R94 to R97). Settles O25, O26, O27 and O28. -/

namespace Sys2Proof.Machine

/-- Settles O25: a write of BC after the advance of PC; both have their results and frames. -/
theorem ldBcD16ResultAndFrame : Obligations.LdBcD16ResultAndFrame := by
  intro d16 s
  obtain ⟨hpc, hsp, hmem, hcontrol⟩ := setPair_frame (s.skipOperands .f2) .bc d16
  refine ⟨_, rfl, reg8_hi_setPair_toNat _ .bc d16, reg8_lo_setPair_toNat _ .bc d16, ?_, ?_, hsp, hmem, hcontrol⟩
  · rw [hpc]
    exact skipOperands_pc_toNat s .f2
  · exact sameRegs8Outside_of_skipOperands (sameRegs8Outside_setPair _ .bc d16)

/-- Settles O26: one byte stored at the address that the pair BC holds. -/
theorem ldBcAStoresAndFrame : Obligations.LdBcAStoresAndFrame := by
  intro s
  exact ⟨_, rfl, pair_toNat s .bc, readByte_store8_same s _ _, sameMemoryOutside_store8 s _ _,
    sameRegs8Outside_store8 s _ _, rfl, rfl, rfl, rfl, rfl⟩

/-- Settles O27: a write of B, BC's high register, after the advance of PC. -/
theorem ldBD8ResultAndFrame : Obligations.LdBD8ResultAndFrame := by
  intro d8 s
  obtain ⟨hpc, hsp, hmem, hcontrol⟩ := setReg8_frame (s.skipOperands .f1) .b d8
  refine ⟨_, rfl, rfl, pair_setReg8_hi_toNat _ .bc d8, ?_, ?_, hsp, hmem, hcontrol⟩
  · rw [hpc]
    exact skipOperands_pc_toNat s .f1
  · exact sameRegs8Outside_of_skipOperands (sameRegs8Outside_setReg8 _ .b d8)

/-- Settles O28: a word stored after the advance of PC, which leaves SP and memory as they are. -/
theorem ldA16SpStoresAndFrame : Obligations.LdA16SpStoresAndFrame := by
  intro a16 s
  refine ⟨_, rfl, ?_, ?_, sameMemoryOutside_store16 (s.skipOperands .f2) _ _, ?_, ?_, rfl, rfl, rfl, rfl⟩
  · rw [State.store16_mem, readByte_writeWord_low, loByte_toNat]
  · rw [State.store16_mem, readByte_writeWord_high, hiByte_toNat]
  · exact sameRegs8Outside_of_skipOperands (sameRegs8Outside_store16 (s.skipOperands .f2) _ _)
  · exact skipOperands_pc_toNat s .f2

end Sys2Proof.Machine
end

section
/-! The ticks of the loads and stores: the operand as the word that memory holds after the opcode, and the handler's effect with
its cost added (20_memory.md section 5; 43_loads.md R93 to R98). Settles O36, O37, O38 and O45. -/

namespace Sys2Proof.Machine

variable {s t : State}

/-! ### The instruction that a tick reads -/

/-- The tick assembles its instruction from the opcode's row and the bytes after the opcode (R59, R60, R74). -/
theorem decode_instrBytes_of_opcode (h : Handler) (hop : s.mem.readByte s.pc = h.opcode) :
    decode s.instrBytes = assemble h (State.fetchBytes h.format.operandLength (s.advancePc 1)) := by
  simp [State.instrBytes, decode, operandLength, hop, decodeOpcode_opcode]

/-- The operand of LD BC,d16 is the word after the opcode (R61, R93). -/
theorem decode_instrBytes_ldBcD16 (hop : s.mem.readByte s.pc = 0x01) :
    decode s.instrBytes = .ok (.ldBcD16 (s.mem.readWord (s.pc + 1)), []) :=
  decode_instrBytes_of_opcode .ld16ImmBc hop

theorem decode_instrBytes_ldBcA (hop : s.mem.readByte s.pc = 0x02) : decode s.instrBytes = .ok (.ldBcA, []) :=
  decode_instrBytes_of_opcode .st8IndBcA hop

/-- The operand of LD (a16),SP is the word after the opcode (R61, R93). -/
theorem decode_instrBytes_ldA16Sp (hop : s.mem.readByte s.pc = 0x08) :
    decode s.instrBytes = .ok (.ldA16Sp (s.mem.readWord (s.pc + 1)), []) :=
  decode_instrBytes_of_opcode .st16AbsSp hop

/-! ### A tick that completes -/

/-- The tick of an instruction is its handler's effect with its cost added (R76, R78). -/
theorem step_of_decode {i : Instr} {rest : List Byte} {u : State} (hf : s.fault = none)
    (hdecode : decode s.instrBytes = .ok (i, rest)) (hexec : exec i (s.advancePc 1) = .next u) :
    step s = .next (u.addCycles (i.handler.cost u.params)) := by
  simp [step, tick, hf, hdecode, hexec, account]

/-- A tick that completes has run the handler of an instruction of its opcode's row. -/
theorem exec_of_step_next (h : step s = .next t) :
    ∃ i u, decodeOpcode (s.mem.readByte s.pc) = some i.handler ∧ exec i (s.advancePc 1) = .next u ∧
      t = u.addCycles (i.handler.cost u.params) := by
  rcases step_cases s with ⟨r, -, hstep⟩ | ⟨-, -, hstep⟩ | ⟨i, -, hrow, -, hstep⟩
  · rw [hstep] at h
    cases h
  · rw [hstep] at h
    cases h
  · rw [hstep] at h
    obtain ⟨u, hexec, ht⟩ := account_next h
    exact ⟨i, u, hrow, hexec, ht⟩

/-- A tick on one of the nine opcodes completes (R65, R82). -/
theorem exists_step_eq_next (hf : s.fault = none) (hop : (s.mem.readByte s.pc).toNat < 9) : ∃ u, step s = .next u := by
  rcases decode_instrBytes s with ⟨hnone, -⟩ | ⟨i, -, hdecode⟩
  · exact absurd (decodeOpcode_eq_none_iff.mp hnone) (Nat.not_le.mpr hop)
  · obtain ⟨u, hexec⟩ := exists_exec_eq_next i (s.advancePc 1)
    exact ⟨_, step_of_decode hf hdecode hexec⟩

/-! ### Whole ticks -/

theorem pair_addCycles (s : State) (n : Nat) (p : Pair) : (s.addCycles n).pair p = s.pair p := by
  rw [State.pair, reg8_addCycles, reg8_addCycles, State.pair]

/-- LD BC,d16's tick as updates of the state it starts in. -/
theorem step_ldBcD16 (hf : s.fault = none) (hop : s.mem.readByte s.pc = 0x01) :
    step s = .next (((s.advancePc 3).setPair .bc (s.mem.readWord (s.pc + 1))).addCycles 12) := by
  rw [step_of_decode hf (decode_instrBytes_ldBcD16 hop) rfl, skipOperands_advancePc]
  rfl

/-- LD (a16),SP's tick as updates of the state it starts in: its address is read from memory as it was before the store. -/
theorem step_ldA16Sp (hf : s.fault = none) (hop : s.mem.readByte s.pc = 0x08) :
    step s = .next (((s.advancePc 3).store16 (s.mem.readWord (s.pc + 1)) s.sp).addCycles
      s.params.cycleCost.op08.units) := by
  rw [step_of_decode hf (decode_instrBytes_ldA16Sp hop) rfl, skipOperands_advancePc]
  rfl

/-- LD (BC),A's tick as updates of the state it starts in. -/
theorem step_ldBcA (hf : s.fault = none) (hop : s.mem.readByte s.pc = 0x02) :
    step s = .next (((s.advancePc 1).store8 (s.pair .bc) s.a).addCycles s.params.cycleCost.op02.units) :=
  step_of_decode hf (decode_instrBytes_ldBcA hop) rfl

/-- Settles O36: BC takes the two bytes of the word after the opcode. -/
theorem ldBcD16Tick : Obligations.LdBcD16Tick := by
  intro s hf hop
  refine ⟨_, step_ldBcD16 hf hop, ?_, ?_, ?_, rfl, rfl⟩
  · rw [State.addCycles_c, State.setPair_bc_c, loByte_readWord]
  · have hnext : s.pc + 1 + 1 = s.pc + 2 := BitVec.add_assoc s.pc 1 1
    rw [State.addCycles_b, State.setPair_bc_b, hiByte_readWord, hnext]
  · rw [pair_addCycles, pair_setPair_same _ (by decide)]

/-- Settles O37: the store's address is a word of the memory before it. -/
theorem ldA16SpReadsOperandBeforeStore : Obligations.LdA16SpReadsOperandBeforeStore := by
  intro s hf hop
  exact ⟨_, step_ldA16Sp hf hop, readWord_writeWord_same s.mem _ s.sp,
    sameMemoryOutside_store16 (s.advancePc 3) _ _, rfl⟩

/-- Settles O38: the byte stored is the one at the new PC, so whether A is an opcode decides the next tick. -/
theorem storeIsSeenByNextFetch : Obligations.StoreIsSeenByNextFetch := by
  intro s hf hop hbc
  have hstep := step_ldBcA hf hop
  rw [hbc] at hstep
  generalize ht : ((s.advancePc 1).store8 (s.pc + 1) s.a).addCycles s.params.cycleCost.op02.units = t at hstep
  have hpc : t.pc = s.pc + 1 := by rw [← ht]; rfl
  have hfault : t.fault = none := by rw [← ht]; exact hf
  have hbyte : t.mem.readByte t.pc = s.a := by
    rw [hpc, ← ht]
    exact readByte_store8_same (s.advancePc 1) _ _
  refine ⟨t, hstep, hpc, hbyte, ?_, ?_⟩
  · intro hge
    have hnext := step_of_unsupported hfault (by rw [hbyte]; exact decodeOpcode_eq_none_iff.mpr hge)
    rw [hbyte] at hnext
    exact ⟨_, hnext⟩
  · intro hle
    exact exists_step_eq_next hfault (by rw [hbyte]; exact Nat.lt_succ_of_le hle)

/-! ### Stores write no register, the others no memory (R98) -/

/-- The two store handlers write neither an 8-bit register nor SP. -/
theorem exec_store_registers {i : Instr} {u : State} (hi : i.handler = .st8IndBcA ∨ i.handler = .st16AbsSp)
    (h : exec i s = .next u) : sameRegs8Outside [] s u ∧ u.sp = s.sp := by
  cases i with
  | ldBcA =>
    obtain ⟨v, hv, -, -, -, hregs, -, hsp, -⟩ := ldBcAStoresAndFrame s
    cases hv.symm.trans h
    exact ⟨hregs, hsp⟩
  | ldA16Sp a16 =>
    obtain ⟨v, hv, -, -, -, hregs, -, hsp, -⟩ := ldA16SpStoresAndFrame a16 s
    cases hv.symm.trans h
    exact ⟨hregs, hsp⟩
  | _ => simp [Instr.handler] at hi

/-- Every other handler leaves the memory list itself as it is. -/
theorem exec_mem_of_not_store {i : Instr} {u : State} (h8 : i.handler ≠ .st8IndBcA) (h16 : i.handler ≠ .st16AbsSp)
    (h : exec i s = .next u) : u.mem = s.mem := by
  cases i with
  | ldBcA => exact absurd rfl h8
  | ldA16Sp a16 => exact absurd rfl h16
  | nop => cases h; rfl
  | ldBcD16 d16 => cases h; exact State.setPair_mem _ .bc d16
  | ldBD8 d8 => cases h; exact State.setReg8_mem _ .b d8
  | incBc => cases h; exact State.setPair_mem _ .bc _
  | incB => cases h; exact alu8_mem s .b inc8 _
  | decB => cases h; exact alu8_mem s .b dec8 _
  | rlca => cases h; exact alu8_mem s .a rlc8 _

/-- Settles O45: the opcode byte names the handler's row, and the tick around the handler touches PC and the counter alone. -/
theorem storesWriteNoRegisterAndOthersNoMemory : Obligations.StoresWriteNoRegisterAndOthersNoMemory := by
  intro s t hstep
  obtain ⟨i, u, hrow, hexec, rfl⟩ := exec_of_step_next hstep
  have hop := opcode_of_decodeOpcode hrow
  refine ⟨fun hstore => ?_, fun h02 h08 => ?_⟩
  · have hi : i.handler = .st8IndBcA ∨ i.handler = .st16AbsSp := by
      rcases hstore with hb | hb <;> rw [hb] at hrow
      · exact .inl (Option.some.inj hrow).symm
      · exact .inr (Option.some.inj hrow).symm
    obtain ⟨hregs, hsp⟩ := exec_store_registers hi hexec
    refine ⟨fun r hr => ?_, hsp⟩
    rw [reg8_addCycles, hregs r hr, reg8_advancePc]
  · have h8 : i.handler ≠ .st8IndBcA := fun hi => h02 (hop.trans (congrArg Handler.opcode hi))
    have h16 : i.handler ≠ .st16AbsSp := fun hi => h08 (hop.trans (congrArg Handler.opcode hi))
    rw [State.addCycles_mem, exec_mem_of_not_store h8 h16 hexec, State.advancePc_mem]

end Sys2Proof.Machine
end

section
/-! NOP and sequential control: a run of NOPs as one advance of PC and one sum of cycles, and the advance of PC by every
handler and every tick (44_misc.md R99, R100). Settles O29 and O33. -/

namespace Sys2Proof.Machine

variable {s : State}

/-! ### Cycles added in a row -/

/-- Wrapping a partial sum does not change the wrapped total (R31). -/
theorem wrapCounter_wrapCounter_add (width : Option Nat) (m n : Nat) :
    wrapCounter width (wrapCounter width m + n) = wrapCounter width (m + n) := by
  cases width with
  | none => rfl
  | some w => exact Nat.mod_add_mod m (2 ^ w) n

/-- Two costs added are their sum added, whatever the counter held (R31, R78). -/
theorem addCycles_addCycles (s : State) (m n : Nat) : (s.addCycles m).addCycles n = s.addCycles (m + n) := by
  have hcycles : ((s.addCycles m).addCycles n).cycles = (s.addCycles (m + n)).cycles := by
    simp only [State.addCycles_cycles, State.addCycles_params, wrapCounter_wrapCounter_add, Nat.add_assoc]
  exact State.ext rfl rfl rfl rfl rfl rfl rfl rfl rfl rfl rfl hcycles rfl rfl

theorem advancePc_addCycles (s : State) (m n : Nat) : (s.addCycles m).advancePc n = (s.advancePc n).addCycles m := rfl

/-! ### A run of NOPs (R99) -/

theorem decode_instrBytes_nop (hop : s.mem.readByte s.pc = 0x00) : decode s.instrBytes = .ok (.nop, []) :=
  decode_instrBytes_of_opcode .nop hop

/-- NOP's tick as updates of the state it starts in. -/
theorem step_nop (hf : s.fault = none) (hop : s.mem.readByte s.pc = 0x00) :
    step s = .next ((s.advancePc 1).addCycles 4) :=
  step_of_decode hf (decode_instrBytes_nop hop) rfl

/-- A run whose first tick completes goes on from the state that tick leaves. -/
theorem run_succ_of_step {t : State} (h : step s = .next t) (n : Nat) :
    Host.Core.run core (n + 1) s = Host.Core.run core n t := by
  have hcore : core.step s = .next t := h
  simp only [Host.Core.run, hcore]

/-- Ticks of NOPs, at least one, are one advance of PC and one sum of cycles. (No tick at all leaves even a counter that does not
fit its width as it is, which adding 0 would not.) -/
theorem run_nops (n : Nat) (s : State) (hf : s.fault = none)
    (hnops : ∀ k, k < n + 1 → s.mem.readByte (s.pc + BitVec.ofNat 16 k) = 0x00) :
    Host.Core.run core (n + 1) s = .next ((s.advancePc (n + 1)).addCycles (4 * (n + 1))) := by
  induction n generalizing s with
  | zero =>
    rw [run_succ_of_step (step_nop hf (by simpa using hnops 0 Nat.zero_lt_one))]
    rfl
  | succ n ih =>
    have hrest : ∀ k, k < n + 1 → s.mem.readByte ((s.advancePc 1).pc + BitVec.ofNat 16 k) = 0x00 := by
      intro k hk
      have haddress : (s.advancePc 1).pc + BitVec.ofNat 16 k = s.pc + BitVec.ofNat 16 (1 + k) :=
        congrArg State.pc (advancePc_advancePc s 1 k)
      rw [haddress]
      exact hnops (1 + k) (by omega)
    have hbytes : 1 + (n + 1) = n + 1 + 1 := Nat.add_comm 1 (n + 1)
    have hcycles : 4 + 4 * (n + 1) = 4 * (n + 1 + 1) := by omega
    rw [run_succ_of_step (step_nop hf (by simpa using hnops 0 (Nat.succ_pos (n + 1)))),
      ih ((s.advancePc 1).addCycles 4) hf hrest, advancePc_addCycles, advancePc_advancePc, addCycles_addCycles,
      hbytes, hcycles]

/-- Settles O29: at least one NOP is `run_nops`, and a run of none asks that the counter fits its width. -/
theorem nopRunAddsFourPerTick : Obligations.NopRunAddsFourPerTick := by
  refine ⟨rfl, fun s => rfl, ?_⟩
  intro n s hf hnops
  cases n with
  | zero =>
    refine ⟨s.cycles, ?_, fun _ => rfl, fun w _ hfits => (Nat.mod_eq_of_lt hfits).symm⟩
    simp [Host.Core.run]
  | succ n =>
    refine ⟨wrapCounter s.params.counterWidth (s.cycles + 4 * (n + 1)), run_nops n s hf hnops, ?_, ?_⟩
    · intro hwidth
      rw [hwidth]
      rfl
    · intro w hwidth _
      rw [hwidth]
      rfl

/-! ### PC moves by the length of the instruction, and by nothing else (R100) -/

theorem skipOperands_f0_pc (s : State) : (s.skipOperands .f0).pc = s.pc :=
  BitVec.add_zero s.pc

/-- Every handler moves PC past the operand bytes of its row's format, and no further (R76, R100). -/
theorem exec_pc {i : Instr} {u : State} (h : exec i s = .next u) : u.pc = (s.skipOperands i.handler.format).pc := by
  have hnone : s.pc = (s.skipOperands .f0).pc := (skipOperands_f0_pc s).symm
  cases i with
  | nop => cases h; exact hnone
  | ldBcA => cases h; exact hnone
  | incBc => cases h; exact (State.setPair_pc s .bc _).trans hnone
  | incB => cases h; exact (alu8_pc s .b inc8 _).trans hnone
  | decB => cases h; exact (alu8_pc s .b dec8 _).trans hnone
  | rlca => cases h; exact (alu8_pc s .a rlc8 _).trans hnone
  | ldBcD16 d16 => cases h; exact State.setPair_pc _ .bc d16
  | ldBD8 d8 => cases h; exact State.setReg8_pc _ .b d8
  | ldA16Sp a16 => cases h; exact State.store16_pc _ a16 _

/-- A tick moves PC by its instruction's length, opcode byte included (R75, R76). -/
theorem step_pc_of_decode {i : Instr} {rest : List Byte} (hf : s.fault = none)
    (hdecode : decode s.instrBytes = .ok (i, rest)) :
    ∃ t, step s = .next t ∧ t.pc = (s.advancePc i.length).pc := by
  obtain ⟨u, hexec⟩ := exists_exec_eq_next i (s.advancePc 1)
  refine ⟨_, step_of_decode hf hdecode hexec, ?_⟩
  rw [State.addCycles_pc, exec_pc hexec, skipOperands_advancePc, Instr.length]

/-- Settles O33: the bytes at PC are an instruction, whose tick moves PC by its length, or the opcode has no row. -/
theorem controlIsSequential : Obligations.ControlIsSequential := by
  intro s hf
  rcases decode_instrBytes s with ⟨hnone, -⟩ | ⟨i, -, hdecode⟩
  · exact .inr ⟨_, decodeOpcode_eq_none_iff.mp hnone, step_of_unsupported hf hnone⟩
  · obtain ⟨t, hstep, hpc⟩ := step_pc_of_decode hf hdecode
    refine .inl ⟨i, t, hdecode, hstep, ?_⟩
    rw [hpc, State.advancePc_pc]
    simp

end Sys2Proof.Machine
end

section
/-! A run that ends by fault: the completed ticks before the faulting one, and the latch after it (60_exceptions.md R104, R108,
R109). Settles O50. -/

namespace Sys2Proof.Machine

variable {s : State}

/-- While the latch is set no tick is admitted: the stored fault is returned (R108). -/
theorem step_of_latched {r : FaultRecord} (hf : s.fault = some r) : step s = .fault (.latched r) := by
  simp [step, tick, hf]

/-- A run that ends by fault is fewer completed ticks than it was given, then one tick that raises that fault (R109). -/
theorem exists_faulting_tick_of_run_fault {n : Nat} {r : Fault} (h : Host.Core.run core n s = .fault r) :
    ∃ m u, m < n ∧ Host.Core.run core m s = .next u ∧ step u = .fault r := by
  induction n generalizing s with
  | zero => cases h
  | succ n ih =>
    cases hstep : step s with
    | next s' =>
      rw [run_succ_of_step hstep] at h
      obtain ⟨m, u, hlt, hrun, hfault⟩ := ih h
      exact ⟨m + 1, u, Nat.succ_lt_succ hlt, (run_succ_of_step hstep m).trans hrun, hfault⟩
    | fault r' =>
      have hcore : core.step s = .fault r' := hstep
      simp only [Host.Core.run, hcore] at h
      exact ⟨0, s, Nat.succ_pos n, rfl, hstep.trans h⟩
    | refused r' =>
      have hcore : core.step s = .refused r' := hstep
      simp only [Host.Core.run, hcore] at h
      cases h

/-- Settles O50: the run splits at its faulting tick, of which O31 says what it has done, and the latch it leaves turns every
further tick away. -/
theorem faultEndsTheRunPrecisely : Obligations.FaultEndsTheRunPrecisely := by
  intro n s t opcode address h
  obtain ⟨m, u, hlt, hrun, hfault⟩ := exists_faulting_tick_of_run_fault h
  obtain ⟨-, hbyte, hge, haddress, ht⟩ := (unsupportedOpcodeExactly.1 u opcode address t).mp hfault
  rw [← haddress] at hbyte ht
  subst ht
  exact ⟨rfl, hbyte.symm, hge, rfl, step_of_latched rfl, m, u, hlt, hrun, haddress.symm, rfl⟩

end Sys2Proof.Machine
end

section
/-! Decoder and encoder as inverses: after the opcode byte both speak of the operand bytes alone (30_encoding.md R59 to R63).
Settles O1, O2 and O5. -/

namespace Sys2Proof

open Machine (joinBytes_hi_lo hiByte_joinBytes loByte_joinBytes)

theorem decode_cons_opcode (h : Handler) (bytes : List Byte) : decode (h.opcode :: bytes) = assemble h bytes := by
  simp [decode, decodeOpcode_opcode]

theorem encode_append (i : Instr) (rest : List Byte) :
    encode i ++ rest = i.handler.opcode :: ((encode i).tail ++ rest) := by
  cases i <;> rfl

/-- An instruction's encoding has as many bytes as the instruction's length says (R59). -/
theorem encode_length (i : Instr) : (encode i).length = i.length := by
  cases i <;> rfl

/-- Operands take every value of their width (R61). -/
theorem Instr.wellFormed_eq_true (i : Instr) : i.wellFormed = true := by
  cases i <;> rfl

/-- Operand assembly inverts the encoder's split of a word into its bytes, low byte first (R61). -/
theorem assemble_encode_tail (i : Instr) (rest : List Byte) :
    assemble i.handler ((encode i).tail ++ rest) = .ok (i, rest) := by
  cases i with
  | ldBcD16 d16 => simp [encode, Instr.handler, assemble, joinBytes_hi_lo]
  | ldA16Sp a16 => simp [encode, Instr.handler, assemble, joinBytes_hi_lo]
  | _ => rfl

/-- The encoder inverts operand assembly (R61). -/
theorem eq_encode_tail_of_assemble {h : Handler} {bytes rest : List Byte} {i : Instr}
    (ha : assemble h bytes = .ok (i, rest)) : bytes = (encode i).tail ++ rest := by
  unfold assemble at ha
  split at ha <;> cases ha <;> simp [encode, hiByte_joinBytes, loByte_joinBytes]

/-- Settles O1: the encoding begins with its row's opcode, and that row assembles the operand bytes. -/
theorem decodeOfEncode : Obligations.DecodeOfEncode := by
  intro i rest _
  rw [encode_append, decode_cons_opcode, assemble_encode_tail]

/-- Settles O2: bytes that decode begin with their row's opcode, and that row's assembly is inverted by the encoder. -/
theorem encodeOfDecode : Obligations.EncodeOfDecode := by
  intro bytes i rest h
  cases bytes with
  | nil => cases h
  | cons b operands =>
    obtain rfl := opcode_of_decodeOpcode (decode_cons_ok h).1
    rw [decode_cons_opcode] at h
    rw [encode_append, ← eq_encode_tail_of_assemble h]

/-- Settles O5: each word is the encoding of its instruction. -/
theorem writtenWordsDecode : Obligations.WrittenWordsDecode :=
  ⟨decodeOfEncode .nop [] rfl, decodeOfEncode (.ldBcD16 0x1234) [] rfl, decodeOfEncode .ldBcA [] rfl,
    decodeOfEncode .incBc [] rfl, decodeOfEncode .incB [] rfl, decodeOfEncode .decB [] rfl,
    decodeOfEncode (.ldBD8 0x7F) [] rfl, decodeOfEncode .rlca [] rfl, decodeOfEncode (.ldA16Sp 0xC000) [] rfl⟩

end Sys2Proof
end

section
/-! The host's calls: what each selector names, what each call answers and leaves, and what all of them keep (10_state.md R32,
R38, R39; 20_memory.md R47, R48; 60_exceptions.md R105, R108). Settles O6, O12, O13, O15, O51 and O52. -/

namespace Sys2Proof.Machine

/-! ### Selectors (R32) -/

/-- The selector of a register: `regOfSelector` read backwards. -/
def Reg.selector : Reg → BitVec 4
  | .r8 .a => 0
  | .r8 .b => 1
  | .r8 .c => 2
  | .r8 .d => 3
  | .r8 .e => 4
  | .r8 .f => 5
  | .r8 .h => 6
  | .r8 .l => 7
  | .pc => 8
  | .sp => 9

theorem regOfSelector_selector (r : Reg) : regOfSelector r.selector = some r := by
  cases r with
  | r8 r => cases r <;> rfl
  | pc => rfl
  | sp => rfl

theorem selector_of_regOfSelector {sel : BitVec 4} {r : Reg} (h : regOfSelector sel = some r) : r.selector = sel := by
  unfold regOfSelector at h
  split at h <;> cases h <;> exact BitVec.eq_of_toNat_eq (Eq.symm ‹_›)

theorem regOfSelector_eq_none_iff {sel : BitVec 4} : regOfSelector sel = none ↔ 10 ≤ sel.toNat := by
  revert sel
  decide

/-- Selectors 0 to 9 are those of registers. -/
theorem exists_selector_eq {sel : BitVec 4} (h : sel.toNat ≤ 9) : ∃ r : Reg, r.selector = sel := by
  cases hr : regOfSelector sel with
  | none => exact absurd (regOfSelector_eq_none_iff.mp hr) (by omega)
  | some r => exact ⟨r, selector_of_regOfSelector hr⟩

/-- The selectors of PC and SP come after those of the 8-bit registers. -/
theorem selector_r8_toNat_le (r : Reg8) : (Reg.r8 r).selector.toNat ≤ 7 := by cases r <;> decide

theorem flagOfSelector_bit (sel : BitVec 2) : (flagOfSelector sel).bit = 7 - sel.toNat := by
  revert sel
  decide

/-! ### Registers through the interface (R38) -/

theorem hostCall_readReg (s : State) (r : Reg) : hostCall (.readReg r.selector) s = (s.readReg r, s) := by
  simp only [hostCall, regOfSelector_selector]

theorem hostCall_writeReg (s : State) (r : Reg) (v : Int) :
    hostCall (.writeReg r.selector v) s = (.done, s.writeReg r v) := by
  simp only [hostCall, regOfSelector_selector]

/-- An 8-bit register but F reads back what was written, reduced to its width (R17). -/
theorem readReg_writeReg_r8 (s : State) {r : Reg8} (hr : r ≠ .f) (v : Int) :
    (s.writeReg (.r8 r) v).readReg (.r8 r) = .byte (BitVec.ofInt 8 v) := by
  simp [State.readReg, State.writeReg, reg8_setReg8, hr]

/-- A register write is seen by no other register's read (R20). -/
theorem readReg_writeReg_other (s : State) {r q : Reg} (h : q ≠ r) (v : Int) :
    (s.writeReg r v).readReg q = s.readReg q := by
  cases r with
  | r8 r =>
    cases q with
    | r8 q =>
      have hq : q ≠ r := fun e => h (congrArg Reg.r8 e)
      simp [State.readReg, State.writeReg, reg8_setReg8, hq]
    | pc => simp [State.readReg, State.writeReg]
    | sp => simp [State.readReg, State.writeReg]
  | pc =>
    cases q with
    | pc => exact absurd rfl h
    | _ => simp [State.readReg, State.writeReg]
  | sp =>
    cases q with
    | sp => exact absurd rfl h
    | _ => simp [State.readReg, State.writeReg]

theorem writeReg_mem (s : State) (r : Reg) (v : Int) : (s.writeReg r v).mem = s.mem := by
  cases r <;> simp [State.writeReg]

theorem sameControl_writeReg (s : State) (r : Reg) (v : Int) : sameControl s (s.writeReg r v) := by
  cases r <;> simp [State.writeReg, sameControl]

/-- Settles O6: the selector is a register's, and each clause is a read of that register or of another after its write. -/
theorem registerInterfaceWriteRead : Obligations.RegisterInterfaceWriteRead := by
  intro s
  refine ⟨⟨rfl, rfl, rfl, rfl, rfl, rfl, rfl, rfl, rfl, rfl⟩, ?_⟩
  intro sel v hsel
  obtain ⟨r, rfl⟩ := exists_selector_eq hsel
  simp only [hostCall_writeReg, hostCall_readReg]
  refine ⟨trivial, ?_, ?_, ?_, ?_, ?_, sameControl_writeReg s r v⟩
  · intro hle hne
    cases r with
    | r8 r =>
      have hr : r ≠ .f := by
        rintro rfl
        exact hne rfl
      exact ⟨BitVec.ofInt 8 v, toNat_ofInt_eq_emod 8 v, by rw [readReg_writeReg_r8 s hr]⟩
    | pc => exact absurd hle (by decide)
    | sp => exact absurd hle (by decide)
  · intro hf
    obtain rfl : r = .r8 .f := Option.some.inj ((regOfSelector_selector r).symm.trans (congrArg regOfSelector hf))
    obtain ⟨n, hn, hwrite, -⟩ := flagRegisterLowNibbleHardwired s v
    exact ⟨n, hn, by rw [hwrite]; rfl⟩
  · intro hge
    obtain ⟨n, hn, hpc, hsp⟩ := programCounterAndStackPointerWrap s v
    cases r with
    | r8 r => exact absurd (selector_r8_toNat_le r) (by omega)
    | pc => exact ⟨n, hn, by rw [hpc]; rfl⟩
    | sp => exact ⟨n, hn, by rw [hsp]; rfl⟩
  · intro other hother hle
    obtain ⟨q, rfl⟩ := exists_selector_eq hle
    have hq : q ≠ r := fun e => hother (congrArg Reg.selector e)
    simp only [hostCall_readReg, readReg_writeReg_other s hq]
  · intro a
    rw [writeReg_mem]

/-! ### A selector that names no register (R39, R105) -/

theorem latchFault_eq (s : State) (r : FaultRecord) : s.latchFault r = { s with fault := some (s.fault.getD r) } := by
  cases hf : s.fault with
  | none => simp [State.latchFault, hf]
  | some first =>
    simp only [State.latchFault, hf, Option.getD_some]
    rw [← hf]

theorem hostCall_readReg_invalid (s : State) {sel : BitVec 4} (h : 10 ≤ sel.toNat) :
    hostCall (.readReg sel) s = invalidSelector sel s := by
  simp only [hostCall, regOfSelector_eq_none_iff.mpr h]

theorem hostCall_writeReg_invalid (s : State) {sel : BitVec 4} (v : Int) (h : 10 ≤ sel.toNat) :
    hostCall (.writeReg sel v) s = invalidSelector sel s := by
  simp only [hostCall, regOfSelector_eq_none_iff.mpr h]

/-- Settles O12: both calls are `invalidSelector`, whose one effect is that of the latch. -/
theorem undefinedSelectorRaisesInvalidRegister : Obligations.UndefinedSelectorRaisesInvalidRegister := by
  intro s sel v h
  rw [hostCall_readReg_invalid s h, hostCall_writeReg_invalid s v h, invalidSelector, latchFault_eq]
  exact ⟨rfl, rfl⟩

/-! ### What every call keeps -/

/-- A host call leaves counter, latch and parameters as they are, or it is the fault of an undefined selector. -/
theorem hostCall_control (op : HostOp) (s : State) :
    sameControl s (hostCall op s).2 ∨ ∃ sel : BitVec 4, 10 ≤ sel.toNat ∧ hostCall op s = invalidSelector sel s := by
  cases op with
  | readReg sel =>
    by_cases h : sel.toNat ≤ 9
    · obtain ⟨r, rfl⟩ := exists_selector_eq h
      rw [hostCall_readReg]
      exact .inl ⟨rfl, rfl, rfl⟩
    · exact .inr ⟨sel, by omega, hostCall_readReg_invalid s (by omega)⟩
  | writeReg sel v =>
    by_cases h : sel.toNat ≤ 9
    · obtain ⟨r, rfl⟩ := exists_selector_eq h
      rw [hostCall_writeReg]
      exact .inl (sameControl_writeReg s r v)
    · exact .inr ⟨sel, by omega, hostCall_writeReg_invalid s v (by omega)⟩
  | writePair sel v =>
    obtain ⟨-, -, -, hcontrol⟩ := setPair_frame s (pairOfSelector sel) (BitVec.ofInt 16 v)
    exact .inl hcontrol
  | _ => exact .inl ⟨rfl, rfl, rfl⟩

/-- Settles O13: where the latch changes at all, an undefined selector has set it, and only if it was none. -/
theorem hostCallsKeepLatchAndCounter : Obligations.HostCallsKeepLatchAndCounter := by
  intro op s
  rcases hostCall_control op s with ⟨hcycles, hfault, hparams⟩ | ⟨sel, hsel, hcall⟩
  · exact ⟨hcycles, hparams, fun r hr => hfault.trans hr, fun hnone => .inl (hfault.trans hnone)⟩
  · rw [hcall, invalidSelector, latchFault_eq]
    refine ⟨rfl, rfl, fun r hr => ?_, fun hnone => .inr ⟨sel, hsel, rfl, ?_⟩⟩
    · simp [hr]
    · simp [hnone]

/-! ### Words, pairs and flags through the port -/

theorem hostCall_readWord (s : State) (a : Word) : hostCall (.readWord a) s = (.word (s.mem.readWord a), s) := rfl

theorem hostCall_writeWord (s : State) (a : Word) (v : Int) :
    hostCall (.writeWord a v) s = (.done, s.store16 a (BitVec.ofInt 16 v)) := rfl

/-- Settles O15: the write is a word store of the reduced integer, whose bytes and frame are known. -/
theorem wordWriteThenRead : Obligations.WordWriteThenRead := by
  intro s a v
  have hv : ((BitVec.ofInt 16 v).toNat : Int) = v % 65536 := toNat_ofInt_eq_emod 16 v
  rw [hostCall_writeWord]
  generalize BitVec.ofInt 16 v = w at hv
  refine ⟨⟨w, hv, ?_⟩, ?_, ?_, sameMemoryOutside_store16 s a w, rfl⟩
  · rw [hostCall_readWord, State.store16_mem, readWord_writeWord_same]
  · rw [State.store16_mem, readByte_writeWord_low, loByte_toNat]
    omega
  · rw [State.store16_mem, readByte_writeWord_high, hiByte_toNat]
    omega

/-- Settles O51: the four pairs as sums of their registers, and the two halves of the reduced integer, AF's low one masked. -/
theorem pairInterfaceReadWrite : Obligations.PairInterfaceReadWrite := by
  intro s
  refine ⟨⟨s.pair .bc, s.pair .de, s.pair .hl, s.pair .af, pair_toNat s .bc, pair_toNat s .de, pair_toNat s .hl,
    pair_toNat s .af, rfl, rfl, rfl, rfl⟩, ?_⟩
  intro v
  have hv : ((BitVec.ofInt 16 v).toNat : Int) = v % 65536 := toNat_ofInt_eq_emod 16 v
  refine ⟨hiByte (BitVec.ofInt 16 v), loByte (BitVec.ofInt 16 v), loByte (BitVec.ofInt 16 v) &&& 0xF0, ?_, ?_, ?_,
    rfl, rfl, rfl, rfl⟩
  · rw [hiByte_toNat]
    omega
  · rw [loByte_toNat]
    omega
  · rw [toNat_and_F0, loByte_toNat]
    omega

/-- Settles O52: the selector's flag is the bit `7 - sel` of F, and a flag write is known bit by bit. -/
theorem flagAndCycleInterfaceReadWrite : Obligations.FlagAndCycleInterfaceReadWrite := by
  intro s
  refine ⟨⟨rfl, rfl, rfl, rfl⟩, fun sel v => ⟨(s.setFlag (flagOfSelector sel) v).f, rfl, fun k => ?_⟩, rfl⟩
  rw [getLsbD_setFlag, flagOfSelector_bit]

end Sys2Proof.Machine
end

section
/-! The canonical form of memory, and the state that power-on constructs from its parameters (10_state.md R37; 20_memory.md R53;
70_reset_and_hazards.md R119). Settles O16, O17 and O18. -/

namespace Sys2Proof.Machine

/-! ### Equal bytes, equal lists -/

theorem wfFrom_cons_iff {low k : Nat} {v : Byte} {rest : Memory} :
    Memory.wfFrom low ((k, v) :: rest) = true ↔
      low ≤ k ∧ k < 65536 ∧ v ≠ Memory.unlisted (BitVec.ofNat 16 k) ∧ rest.wfFrom (k + 1) = true := by
  simp [Memory.wfFrom, and_assoc]

/-- Below the lowest address it may list, a canonical list holds nothing. -/
theorem readByte_below {low : Nat} {m : Memory} (h : m.wfFrom low = true) {a : Word} (ha : a.toNat < low) :
    m.readByte a = Memory.unlisted a := by
  induction m generalizing low with
  | nil => rfl
  | cons cell rest ih =>
    obtain ⟨k, v⟩ := cell
    obtain ⟨hlow, -, -, hrest⟩ := wfFrom_cons_iff.mp h
    rw [Memory.readByte, if_neg (by omega)]
    exact ih hrest (by omega)

theorem wfFrom_cons_of_le {low low' k : Nat} {v : Byte} {rest : Memory} (h : Memory.wfFrom low ((k, v) :: rest) = true)
    (hle : low' ≤ k) : Memory.wfFrom low' ((k, v) :: rest) = true := by
  obtain ⟨-, hcell⟩ := wfFrom_cons_iff.mp h
  exact wfFrom_cons_iff.mpr ⟨hle, hcell⟩

theorem readByte_cons_same {k : Nat} (hk : k < 65536) (v : Byte) (rest : Memory) :
    Memory.readByte ((k, v) :: rest) (BitVec.ofNat 16 k) = v := by
  rw [Memory.readByte, if_pos]
  exact (Nat.mod_eq_of_lt hk).symm

/-- A list that holds nothing up to a canonical list's first address reads otherwise there. -/
theorem exists_readByte_ne {low k : Nat} {v : Byte} {rest n : Memory} (h : Memory.wfFrom low ((k, v) :: rest) = true)
    (hn : n.wfFrom (k + 1) = true) : ∃ a : Word, Memory.readByte ((k, v) :: rest) a ≠ n.readByte a := by
  obtain ⟨-, hk, hv, -⟩ := wfFrom_cons_iff.mp h
  have hbelow : (BitVec.ofNat 16 k).toNat < k + 1 := Nat.lt_succ_of_le (Nat.mod_le k (2 ^ 16))
  refine ⟨BitVec.ofNat 16 k, ?_⟩
  rw [readByte_cons_same hk, readByte_below hn hbelow]
  exact hv

/-- Behind one common first entry, lists that read alike go on alike: at that entry's address neither holds anything more. -/
theorem readByte_tail_eq {k : Nat} {v : Byte} {rest rest' : Memory} (hm : rest.wfFrom (k + 1) = true)
    (hn : rest'.wfFrom (k + 1) = true)
    (h : ∀ a : Word, Memory.readByte ((k, v) :: rest) a = Memory.readByte ((k, v) :: rest') a) (a : Word) :
    rest.readByte a = rest'.readByte a := by
  by_cases ha : k = a.toNat
  · rw [readByte_below hm (by omega), readByte_below hn (by omega)]
  · simpa [Memory.readByte, ha] using h a

/-- Where the first entries differ, the lower of their addresses, or the common one, reads differently. -/
theorem eq_of_readByte_eq {low : Nat} {m n : Memory} (hm : m.wfFrom low = true) (hn : n.wfFrom low = true)
    (h : ∀ a : Word, m.readByte a = n.readByte a) : m = n := by
  induction m generalizing n low with
  | nil =>
    cases n with
    | nil => rfl
    | cons cell rest =>
      obtain ⟨a, ha⟩ := exists_readByte_ne (n := []) hn rfl
      exact absurd (h a).symm ha
  | cons cell rest ih =>
    obtain ⟨k, v⟩ := cell
    cases n with
    | nil =>
      obtain ⟨a, ha⟩ := exists_readByte_ne (n := []) hm rfl
      exact absurd (h a) ha
    | cons cell' rest' =>
      obtain ⟨k', v'⟩ := cell'
      rcases Nat.lt_trichotomy k k' with hlt | rfl | hgt
      · obtain ⟨a, ha⟩ := exists_readByte_ne hm (wfFrom_cons_of_le hn hlt)
        exact absurd (h a) ha
      · obtain ⟨-, hk, -, hrest⟩ := wfFrom_cons_iff.mp hm
        obtain ⟨-, -, -, hrest'⟩ := wfFrom_cons_iff.mp hn
        have hv := h (BitVec.ofNat 16 k)
        rw [readByte_cons_same hk, readByte_cons_same hk] at hv
        subst hv
        rw [ih hrest hrest' (readByte_tail_eq hrest hrest' h)]
      · obtain ⟨a, ha⟩ := exists_readByte_ne hn (wfFrom_cons_of_le hm hgt)
        exact absurd (h a).symm ha

/-- Settles O16: `eq_of_readByte_eq` from address 0 up. -/
theorem canonicalMemoryIsUnique : Obligations.CanonicalMemoryIsUnique :=
  fun _ _ hm hn h => eq_of_readByte_eq hm hn h

/-! ### Power-on -/

theorem presetByte_of_not_mem {table : List (Word × Byte)} {a : Word} (h : ∀ v, (a, v) ∉ table) :
    presetByte table a = none := by
  induction table with
  | nil => rfl
  | cons entry rest ih =>
    obtain ⟨k, x⟩ := entry
    have hk : k ≠ a := by
      rintro rfl
      exact h x List.mem_cons_self
    rw [presetByte, if_neg hk]
    exact ih fun v hv => h v (List.mem_cons_of_mem _ hv)

/-- A finite map's lookup finds every entry, because no address is listed twice (D6). -/
theorem presetByte_of_mem {table : List (Word × Byte)} {a : Word} {v : Byte} (hwf : ioPresetWellFormed table = true)
    (h : (a, v) ∈ table) : presetByte table a = some v := by
  induction table with
  | nil => cases h
  | cons entry rest ih =>
    obtain ⟨k, x⟩ := entry
    obtain ⟨hfresh, hrest⟩ : (∀ l y, (l, y) ∈ rest → l ≠ k) ∧ ioPresetWellFormed rest = true := by
      simpa [ioPresetWellFormed] using hwf
    rcases List.mem_cons.mp h with heq | hmem
    · cases heq
      rw [presetByte, if_pos rfl]
    · rw [presetByte, if_neg (hfresh a v hmem).symm]
      exact ih hrest hmem

theorem powerOn_mem (p : PowerOn) : (powerOn p).mem = Memory.ofBytes (bootByte p) := by
  rw [powerOn]

theorem powerOn_readByte (p : PowerOn) (a : Word) : (powerOn p).mem.readByte a = bootByte p a := by
  rw [powerOn_mem, readByte_ofBytes]

/-- Settles O17: the boot byte is the preset's where it has the address, MEM_INIT's elsewhere. -/
theorem powerOnConstructsState : Obligations.PowerOnConstructsState := by
  intro p hp
  obtain ⟨-, hpreset⟩ : p.regs.wellFormed = true ∧ ioPresetWellFormed p.ioPreset = true := by
    simpa [PowerOn.wellFormed] using hp
  refine ⟨rfl, rfl, rfl, rfl, rfl, rfl, rfl, rfl, rfl, rfl, fun a v hmem => ?_, fun a hnone => ?_, rfl, rfl, rfl⟩
  · rw [powerOn_readByte, bootByte, presetByte_of_mem hpreset hmem, Option.getD_some]
  · rw [powerOn_readByte, bootByte, presetByte_of_not_mem hnone, Option.getD_none]

/-- Settles O18: at the defaults every byte is what an unlisted address reads as, and only the empty list reads so everywhere. -/
theorem resetIsDefaultPowerOn : Obligations.ResetIsDefaultPowerOn := by
  have hmem : Memory.ofBytes (bootByte defaultPowerOn) = [] :=
    canonicalMemoryIsUnique _ _ (wf_ofBytes _) wf_nil (readByte_ofBytes (bootByte defaultPowerOn))
  unfold Obligations.ResetIsDefaultPowerOn powerOn
  rw [hmem]
  rfl

end Sys2Proof.Machine
end

section
/-! The invariant: one rule per operation on the state, then the tick and the host calls as compositions of operations
(10_state.md R17, R18, R28, R31, R37; 20_memory.md R45, R48). Settles O19,
O40, O41 and O42. -/

namespace Sys2Proof.Machine

/-! ### Each operation keeps it -/

namespace State.Inv

variable {s : State}

theorem setPc (h : s.Inv) (v : Word) : (s.setPc v).Inv := ⟨h.memory, h.fLow, h.counter⟩

theorem setSp (h : s.Inv) (v : Word) : (s.setSp v).Inv := ⟨h.memory, h.fLow, h.counter⟩

theorem advancePc (h : s.Inv) (n : Nat) : (s.advancePc n).Inv := h.setPc _

theorem store8 (h : s.Inv) (a : Word) (v : Byte) : (s.store8 a v).Inv := ⟨wf_writeByte a v h.memory, h.fLow, h.counter⟩

theorem store16 (h : s.Inv) (a w : Word) : (s.store16 a w).Inv := ⟨wf_writeWord a w h.memory, h.fLow, h.counter⟩

/-- Only a write of F could break it, and that one is masked (R18). -/
theorem setReg8 (h : s.Inv) (r : Reg8) (v : Byte) : (s.setReg8 r v).Inv := by
  cases r with
  | f => exact ⟨h.memory, fLowZero_setReg8_f s v, h.counter⟩
  | _ => exact ⟨h.memory, h.fLow, h.counter⟩

theorem setPair (h : s.Inv) (p : Pair) (w : Word) : (s.setPair p w).Inv := (h.setReg8 p.hi _).setReg8 p.lo _

theorem setFlag (h : s.Inv) (g : Flag) (v : Bool) : (s.setFlag g v).Inv :=
  ⟨h.memory, (setFlag_low s g v).trans h.fLow, h.counter⟩

theorem alu8 (h : s.Inv) {r : Reg8} (hr : r ≠ .f) (op : Byte → AluResult) (m : FlagMask) : (s.alu8 r op m).Inv where
  memory := by rw [alu8_mem]; exact h.memory
  fLow := (alu8_low s r op m hr).trans h.fLow
  counter := by
    intro w hw
    rw [alu8_params] at hw
    rw [alu8_cycles]
    exact h.counter w hw

/-- The sum is wrapped to the counter's width (R31). -/
theorem addCycles (h : s.Inv) (n : Nat) : (s.addCycles n).Inv :=
  ⟨h.memory, h.fLow, fun _ hw => wrapCounter_lt _ hw⟩

theorem latchFault (h : s.Inv) (r : FaultRecord) : (s.latchFault r).Inv := by
  unfold State.latchFault
  split
  · exact ⟨h.memory, h.fLow, h.counter⟩
  · exact h

theorem writeReg (h : s.Inv) (r : Reg) (v : Int) : (s.writeReg r v).Inv := by
  cases r with
  | r8 r => exact h.setReg8 r _
  | pc => exact h.setPc _
  | sp => exact h.setSp _

/-! ### Handlers, ticks and host calls -/

/-- Every handler keeps it. -/
theorem exec {u : State} (h : s.Inv) {i : Instr} (hexec : exec i s = .next u) : u.Inv := by
  cases i with
  | nop => cases hexec; exact h
  | ldBcD16 d16 => cases hexec; exact (h.advancePc _).setPair .bc d16
  | ldBcA => cases hexec; exact h.store8 _ _
  | incBc => cases hexec; exact h.setPair .bc _
  | incB => cases hexec; exact h.alu8 (by decide) inc8 _
  | decB => cases hexec; exact h.alu8 (by decide) dec8 _
  | ldBD8 d8 => cases hexec; exact (h.advancePc _).setReg8 .b d8
  | rlca => cases hexec; exact h.alu8 (by decide) rlc8 _
  | ldA16Sp a16 => cases hexec; exact (h.advancePc _).store16 _ _

end State.Inv

/-- Settles O40: a completed tick is an advance of PC, a handler and a sum of cycles; the one that faults touches PC and the latch
alone. -/
theorem everyStepKeepsTheInvariant : Obligations.EveryStepKeepsTheInvariant := by
  intro s h
  constructor
  · intro t hstep
    obtain ⟨i, u, -, hexec, rfl⟩ := exec_of_step_next hstep
    exact ((h.advancePc 1).exec hexec).addCycles _
  · intro opcode address t hstep
    obtain ⟨-, -, -, -, rfl⟩ := (unsupportedOpcodeExactly.1 s opcode address t).mp hstep
    exact ⟨h.memory, h.fLow, h.counter⟩

/-- Settles O41: a read leaves the state as it is, a write is one operation on it, and an undefined selector sets the latch. -/
theorem everyHostCallKeepsTheInvariant : Obligations.EveryHostCallKeepsTheInvariant := by
  intro op s h
  cases op with
  | readReg sel =>
    by_cases hsel : sel.toNat ≤ 9
    · obtain ⟨r, rfl⟩ := exists_selector_eq hsel
      rw [hostCall_readReg]
      exact h
    · rw [hostCall_readReg_invalid s (by omega)]
      exact h.latchFault _
  | writeReg sel v =>
    by_cases hsel : sel.toNat ≤ 9
    · obtain ⟨r, rfl⟩ := exists_selector_eq hsel
      rw [hostCall_writeReg]
      exact h.writeReg r v
    · rw [hostCall_writeReg_invalid s v (by omega)]
      exact h.latchFault _
  | writePair sel v => exact h.setPair _ _
  | writeFlag sel v => exact h.setFlag _ v
  | writeByte a v => exact h.store8 a _
  | writeWord a v => exact h.store16 a _
  | _ => exact h

/-! ### At power-on, and in every state there is -/

/-- RESET_REGS.F has its low nibble zero (R37), and the counter starts at 0. -/
theorem inv_powerOn {p : PowerOn} (hp : p.wellFormed = true) : (powerOn p).Inv := by
  obtain ⟨hregs, -⟩ : p.regs.wellFormed = true ∧ ioPresetWellFormed p.ioPreset = true := by
    simpa [PowerOn.wellFormed] using hp
  refine ⟨?_, ?_, fun w _ => Nat.two_pow_pos w⟩
  · rw [powerOn_mem]
    exact wf_ofBytes _
  · exact beq_iff_eq.mp hregs

/-- Settles O19: the state after reset is power-on at the defaults, which are admissible. -/
theorem resetMeetsTheInvariant : Obligations.ResetMeetsTheInvariant := by
  have hreset : powerOn defaultPowerOn = State.reset := resetIsDefaultPowerOn
  rw [Obligations.ResetMeetsTheInvariant, ← hreset]
  exact inv_powerOn (by decide)

/-- Settles O42: it holds at power-on, and every host call and every tick keeps it. -/
theorem reachableStatesMeetTheInvariant : Obligations.ReachableStatesMeetTheInvariant := by
  intro s hs
  induction hs with
  | powerOn p hp => exact inv_powerOn hp
  | hostCall op s _ ih => exact everyHostCallKeepsTheInvariant op s ih
  | tick s t _ hstep ih => exact (everyStepKeepsTheInvariant s ih).1 t hstep
  | fault s t opcode address _ hstep ih => exact (everyStepKeepsTheInvariant s ih).2 opcode address t hstep

end Sys2Proof.Machine
end

section
/-! The fetch of a tick as byte reads at rising addresses, what the tick runs from there, and its bus accesses (20_memory.md R50,
R58; 30_encoding.md R59, R61; 40_dispatch.md R74 to R79, R84; 43_loads.md R93; 60_exceptions.md R108). Settles O30, O32, O35 and
O39. -/

namespace Sys2Proof.Machine

variable {s t : State}

/-! ### The bytes fetched -/

/-- A list over the addresses from `a` on is its first member, then the list over the addresses after `a`. -/
theorem map_range_succ_address {α : Type} (f : Word → α) (a : Word) (n : Nat) :
    (List.range (n + 1)).map (fun k => f (a + BitVec.ofNat 16 k)) =
      f a :: (List.range n).map (fun k => f (a + 1 + BitVec.ofNat 16 k)) := by
  rw [List.range_succ_eq_map, List.map_cons, List.map_map, BitVec.add_zero]
  refine congrArg _ (List.map_congr_left fun k _ => congrArg f ?_)
  rw [Nat.succ_eq_one_add, BitVec.ofNat_add, ← BitVec.add_assoc]
  rfl

/-- Byte fetches read the bytes from PC on, mod 65536 (R93). -/
theorem fetchBytes_eq_map (n : Nat) (s : State) :
    s.fetchBytes n = (List.range n).map (fun k => s.mem.readByte (s.pc + BitVec.ofNat 16 k)) := by
  induction n generalizing s with
  | zero => rfl
  | succ n ih =>
    rw [State.fetchBytes, ih, map_range_succ_address s.mem.readByte]
    rfl

/-- The opcode fetch and the operand fetches are fetches of one kind (R74, R76). -/
theorem instrBytes_eq_fetchBytes (s : State) :
    s.instrBytes = s.fetchBytes (operandLength (s.mem.readByte s.pc) + 1) := rfl

theorem fetchBytes_length (n : Nat) (s : State) : (s.fetchBytes n).length = n := by
  rw [fetchBytes_eq_map, List.length_map, List.length_range]

/-- Fewer fetches read the first of the bytes that more of them read. -/
theorem take_fetchBytes {m n : Nat} (h : m ≤ n) (s : State) : (s.fetchBytes n).take m = s.fetchBytes m := by
  rw [fetchBytes_eq_map, fetchBytes_eq_map, ← List.map_take, List.take_range, Nat.min_eq_left h]

/-- The opcode's row fixes how many bytes a tick fetches: the length of that row's instructions (R59). -/
theorem instrBytes_eq_of_row {i : Instr} (hrow : decodeOpcode (s.mem.readByte s.pc) = some i.handler) :
    s.instrBytes = s.fetchBytes i.length := by
  rw [instrBytes_eq_fetchBytes, Instr.length, Nat.add_comm, operandLength, hrow]

theorem instrBytes_eq_of_decode {i : Instr} {rest : List Byte} (h : decode s.instrBytes = .ok (i, rest)) :
    s.instrBytes = s.fetchBytes i.length := by
  obtain ⟨hrow, -⟩ := decode_cons_ok h
  exact instrBytes_eq_of_row hrow

/-- A word read is the two bytes there, low byte first (R47). -/
theorem readWord_toNat (m : Memory) (a : Word) :
    (m.readWord a).toNat = (m.readByte a).toNat + 256 * (m.readByte (a + 1)).toNat := by
  rw [Memory.readWord, joinBytes_toNat]
  omega

/-- Two byte fetches, low byte first, read the word at PC (R93). -/
theorem fetch16_eq (s : State) : s.fetch16 = (s.mem.readWord s.pc, s.advancePc 2) :=
  Prod.ext rfl (advancePc_advancePc s 1 1)

/-- Settles O35: fetches are byte reads at rising addresses; each operand is the assembly of the fetched bytes, and the handler's
advance is the fetches' own. -/
theorem operandFetchIsWordRead : Obligations.OperandFetchIsWordRead := by
  intro s
  refine ⟨rfl, fun n => fetchBytes_eq_map n s, ?_, fun _ => rfl, fetch16_eq s, readWord_toNat s.mem s.pc, ?_, ?_, ?_⟩
  · rw [instrBytes_eq_fetchBytes, fetchBytes_eq_map, map_range_succ_address s.mem.readByte]
  · intro hop
    exact ⟨decode_instrBytes_of_opcode .ld8ImmB hop, rfl⟩
  · intro hop
    rw [fetch16_eq]
    exact ⟨decode_instrBytes_ldBcD16 hop, rfl⟩
  · intro hop
    rw [fetch16_eq]
    exact ⟨decode_instrBytes_ldA16Sp hop, rfl⟩

/-! ### What the tick runs -/

/-- A tick that completes has decoded its bytes and run the handler of what they are. -/
theorem decode_of_step_next (h : step s = .next t) :
    ∃ i u, s.fault = none ∧ decode s.instrBytes = .ok (i, []) ∧ exec i (s.advancePc 1) = .next u ∧
      t = u.addCycles (i.handler.cost u.params) := by
  rcases step_cases s with ⟨r, -, hstep⟩ | ⟨-, -, hstep⟩ | ⟨i, hf, -, hdecode, hstep⟩
  · rw [hstep] at h
    cases h
  · rw [hstep] at h
    cases h
  · rw [hstep] at h
    obtain ⟨u, hexec, ht⟩ := account_next h
    exact ⟨i, u, hf, hdecode, hexec, ht⟩

/-- Where the longest fetch decodes, the tick's own fetch is exactly the encoding of the same instruction. -/
theorem decode_instrBytes_of_fetchBytes {i : Instr} {rest : List Byte} (h : decode (s.fetchBytes 3) = .ok (i, rest)) :
    decode s.instrBytes = .ok (i, []) := by
  have hencode : s.fetchBytes 3 = encode i ++ rest := encodeOfDecode _ i rest h
  obtain ⟨hrow, -⟩ := decode_cons_ok h
  obtain ⟨-, hle⟩ := i.length_bounds
  have hbytes : s.instrBytes = encode i ++ [] := by
    calc s.instrBytes = s.fetchBytes i.length := instrBytes_eq_of_row hrow
      _ = (s.fetchBytes 3).take i.length := (take_fetchBytes hle s).symm
      _ = encode i ++ [] := by rw [hencode, ← encode_length, List.take_left, List.append_nil]
  rw [hbytes]
  exact decodeOfEncode i [] i.wellFormed_eq_true

/-- Settles O30: the three bytes from PC on are the longest fetch, and handlers complete, so the tick is `step_of_decode`. -/
theorem stepRunsDecodedInstruction : Obligations.StepRunsDecodedInstruction := by
  intro s i rest hf hdecode _
  have hbytes : s.fetchBytes 3 = [s.mem.readByte s.pc, s.mem.readByte (s.pc + 1), s.mem.readByte (s.pc + 2)] := by
    have hnext : s.pc + 1 + 1 = s.pc + 2 := BitVec.add_assoc s.pc 1 1
    rw [← hnext]
    rfl
  rw [← hbytes] at hdecode
  obtain ⟨u, hexec⟩ := exists_exec_eq_next i (s.advancePc 1)
  have hentry : exec i { s with pc := s.pc + 1 } = .next u := hexec
  rw [hentry]
  exact step_of_decode hf (decode_instrBytes_of_fetchBytes hdecode) hexec

/-- Settles O32: a run's first step already ends it. -/
theorem latchedFaultAdmitsNoTick : Obligations.LatchedFaultAdmitsNoTick := by
  intro s r hf
  have hstep : core.step s = .fault (.latched r) := step_of_latched hf
  exact ⟨hstep, fun n => by simp only [Host.Core.run, hstep]⟩

/-! ### Bus accesses -/

/-- The bus reads of byte fetches are at rising addresses from PC on (R50). -/
theorem readsFrom_fetchBytes (n : Nat) (s : State) :
    readsFrom s.pc (s.fetchBytes n) =
      (List.range n).map (fun k => .read (s.pc + BitVec.ofNat 16 k) (s.mem.readByte (s.pc + BitVec.ofNat 16 k))) := by
  induction n generalizing s with
  | zero => rfl
  | succ n ih =>
    rw [map_range_succ_address fun a => BusAccess.read a (s.mem.readByte a)]
    exact congrArg _ (ih (s.advancePc 1))

theorem readsFrom_length (a : Word) (bytes : List Byte) : (readsFrom a bytes).length = bytes.length := by
  induction bytes generalizing a with
  | nil => rfl
  | cons v rest ih => exact congrArg Nat.succ (ih (a + 1))

theorem busAccesses_of_decode {i : Instr} {rest : List Byte} (hf : s.fault = none)
    (hdecode : decode s.instrBytes = .ok (i, rest)) :
    busAccesses s = readsFrom s.pc s.instrBytes ++ dataWrites s i := by
  simp only [busAccesses, hf, hdecode]

theorem eq_write_of_mem_dataWrites {i : Instr} {x : BusAccess} (h : x ∈ dataWrites s i) : ∃ a v, x = .write a v := by
  cases i with
  | ldBcA => exact ⟨_, _, List.mem_singleton.mp h⟩
  | ldA16Sp a16 =>
    rcases List.mem_cons.mp h with hlow | hhigh
    · exact ⟨_, _, hlow⟩
    · exact ⟨_, _, List.mem_singleton.mp hhigh⟩
  | _ => cases h

/-- Reads leave memory as it is (R44). -/
theorem applyAccesses_readsFrom_append (m : Memory) (a : Word) (bytes : List Byte) (rest : List BusAccess) :
    applyAccesses m (readsFrom a bytes ++ rest) = applyAccesses m rest := by
  induction bytes generalizing a with
  | nil => rfl
  | cons v bytes ih => exact ih (a + 1)

/-- A handler does to memory what its instruction's data writes do (R98). -/
theorem exec_mem {i : Instr} {u : State} (h : exec i (s.advancePc 1) = .next u) :
    u.mem = applyAccesses s.mem (dataWrites s i) := by
  cases i with
  | ldBcA => cases h; rfl
  | ldA16Sp a16 => cases h; rfl
  | _ => exact (exec_mem_of_not_store (by nofun) (by nofun) h).trans rfl

/-- Settles O39: the accesses are the reads of the bytes fetched, as many as the instruction is long, then its data writes. -/
theorem busAccessOrder : Obligations.BusAccessOrder := by
  intro s t i hdecode hstep
  obtain ⟨j, u, hf, hj, hexec, rfl⟩ := decode_of_step_next hstep
  obtain rfl : i = j := by
    rw [hdecode] at hj
    cases hj
    rfl
  have hbytes := instrBytes_eq_of_decode hdecode
  have hlength : (readsFrom s.pc s.instrBytes).length = i.length := by
    rw [readsFrom_length, hbytes, fetchBytes_length]
  rw [busAccesses_of_decode hf hdecode]
  refine ⟨?_, fun x hx => ?_, ?_⟩
  · rw [List.take_left' hlength, hbytes, readsFrom_fetchBytes]
  · rw [List.drop_left' hlength] at hx
    exact eq_write_of_mem_dataWrites hx
  · rw [applyAccesses_readsFrom_append, State.addCycles_mem]
    exact exec_mem hexec

end Sys2Proof.Machine
end

section
/-! What a tick leaves as it was, and what it does not read: the frame of every handler, its flags under the mask, and two ticks
on states that differ in a part no handler looks at (10_state.md R26, R30, R31, R36; 30_encoding.md R67; 40_dispatch.md R78, R82;
41_alu8.md R85). Settles O34, O43, O44, O46, O47 and O48. -/

namespace Sys2Proof

/-! ### Columns of the opcode table -/

/-- The mask's bit for a flag. -/
def FlagMask.allows (m : FlagMask) : Machine.Flag → Bool
  | .z => m.z
  | .n => m.n
  | .h => m.h
  | .c => m.c

theorem CycleCost.units_mem (c : CycleCost) : c.units ∈ [4, 8, 12, 20] := by cases c <;> decide

/-- Every row costs 4, 8, 12 or 20 cycle units (R81). -/
theorem Handler.cost_mem (p : Params) (h : Handler) : h.cost p ∈ [4, 8, 12, 20] := by
  cases h with
  | nop => exact CycleCost.units_mem .four
  | ld16ImmBc => exact CycleCost.units_mem .twelve
  | _ => exact CycleCost.units_mem _

end Sys2Proof

namespace Sys2Proof.Machine

variable {s t : State}

/-! ### The frame of every handler -/

theorem sameRegs8Outside_mono {written written' : List Reg8} (h : sameRegs8Outside written s t)
    (hsub : written ⊆ written') : sameRegs8Outside written' s t :=
  fun r hr => h r fun hmem => hr (hsub hmem)

/-- Every handler completes, and none writes an 8-bit register but A, B, C and F, nor SP, the counter, the latch or the parameters
(R26, R36, R82). -/
theorem exists_exec_eq_next_with_frame (i : Instr) (s : State) :
    ∃ u, exec i s = .next u ∧ sameRegs8Outside [.a, .b, .c, .f] s u ∧ u.sp = s.sp ∧ sameControl s u := by
  cases i with
  | nop => exact ⟨s, rfl, fun _ _ => rfl, rfl, rfl, rfl, rfl⟩
  | ldBcD16 d16 =>
    obtain ⟨v, hv, -, -, -, hregs, hsp, -, hcontrol⟩ := ldBcD16ResultAndFrame d16 s
    exact ⟨v, hv, sameRegs8Outside_mono hregs (by decide), hsp, hcontrol⟩
  | ldBcA =>
    obtain ⟨v, hv, -, -, -, hregs, -, hsp, hcontrol⟩ := ldBcAStoresAndFrame s
    exact ⟨v, hv, sameRegs8Outside_mono hregs (by decide), hsp, hcontrol⟩
  | incBc =>
    obtain ⟨v, hv, -, hregs, -, -, hsp, -, hcontrol⟩ := incBcResultAndFrame.2 s
    exact ⟨v, hv, sameRegs8Outside_mono hregs (by decide), hsp, hcontrol⟩
  | incB =>
    obtain ⟨v, hv, -, -, -, -, -, -, hregs, -, hsp, -, hcontrol⟩ := incBResultAndFrame s
    exact ⟨v, hv, sameRegs8Outside_mono hregs (by decide), hsp, hcontrol⟩
  | decB =>
    obtain ⟨v, hv, -, -, -, -, -, -, hregs, -, hsp, -, hcontrol⟩ := decBResultAndFrame s
    exact ⟨v, hv, sameRegs8Outside_mono hregs (by decide), hsp, hcontrol⟩
  | ldBD8 d8 =>
    obtain ⟨v, hv, -, -, -, hregs, hsp, -, hcontrol⟩ := ldBD8ResultAndFrame d8 s
    exact ⟨v, hv, sameRegs8Outside_mono hregs (by decide), hsp, hcontrol⟩
  | rlca =>
    obtain ⟨v, hv, -, -, -, -, -, -, hregs, -, hsp, -, hcontrol⟩ := rlcaResultAndFrame s
    exact ⟨v, hv, sameRegs8Outside_mono hregs (by decide), hsp, hcontrol⟩
  | ldA16Sp a16 =>
    obtain ⟨v, hv, -, -, -, hregs, -, hsp, hcontrol⟩ := ldA16SpStoresAndFrame a16 s
    exact ⟨v, hv, sameRegs8Outside_mono hregs (by decide), hsp, hcontrol⟩

theorem exec_frame {i : Instr} {u : State} (h : exec i s = .next u) :
    sameRegs8Outside [.a, .b, .c, .f] s u ∧ u.sp = s.sp ∧ sameControl s u := by
  obtain ⟨v, hv, hframe⟩ := exists_exec_eq_next_with_frame i s
  cases hv.symm.trans h
  exact hframe

/-- Settles O43: the frame of the handler, in the tick around it. -/
theorem untouchedRegistersStay : Obligations.UntouchedRegistersStay := by
  intro s t hstep
  obtain ⟨i, u, hf, -, hexec, rfl⟩ := decode_of_step_next hstep
  obtain ⟨hregs, hsp, -, hfault, hparams⟩ := exec_frame hexec
  exact ⟨hsp, hregs .d (by decide), hregs .e (by decide), hregs .h (by decide), hregs .l (by decide), hparams,
    hfault.trans hf⟩

/-- A tick that completes adds its row's cost to the counter (R78). -/
theorem step_cycles (hstep : step s = .next t) :
    ∃ i : Instr, decodeOpcode (s.mem.readByte s.pc) = some i.handler ∧
      t.cycles = wrapCounter s.params.counterWidth (s.cycles + i.handler.cost s.params) := by
  obtain ⟨i, u, hrow, hexec, rfl⟩ := exec_of_step_next hstep
  obtain ⟨-, -, hcycles, -, hparams⟩ := exec_frame hexec
  refine ⟨i, hrow, ?_⟩
  rw [State.addCycles_cycles, hcycles, hparams]
  rfl

/-- Settles O34: an opcode of the table has a handler, every handler completes, and no case of `step_cases` is a refusal. -/
theorem supportedOpcodeCompletes : Obligations.SupportedOpcodeCompletes := by
  constructor
  · intro s hf hop
    obtain ⟨t, hstep⟩ := exists_step_eq_next hf (Nat.lt_succ_of_le hop)
    obtain ⟨i, hrow, hcycles⟩ := step_cycles hstep
    obtain ⟨-, -, -, -, -, hparams, hfault⟩ := untouchedRegistersStay s t hstep
    exact ⟨i.handler, t, hrow, hstep, hcycles, hfault, hparams⟩
  · intro s r h
    rcases step_cases s with ⟨_, -, hstep⟩ | ⟨-, -, hstep⟩ | ⟨i, -, -, -, hstep⟩
    · rw [hstep] at h
      cases h
    · rw [hstep] at h
      cases h
    · obtain ⟨u, hexec⟩ := exists_exec_eq_next i (s.advancePc 1)
      rw [hstep, hexec] at h
      cases h

/-! ### Flags under the mask (R67, R85) -/

/-- Flags that are not in the mask, and F's low nibble, are the same in two states. -/
def sameFlagsOutside (m : FlagMask) (s t : State) : Prop :=
  (∀ g : Flag, m.allows g = false → t.flag g = s.flag g) ∧ t.f.toNat % 16 = s.f.toNat % 16

theorem sameFlagsOutside_of_f_eq {m : FlagMask} (h : t.f = s.f) : sameFlagsOutside m s t :=
  ⟨fun g _ => congrArg (·.getLsbD g.bit) h, congrArg (·.toNat % 16) h⟩

theorem sameFlagsOutside_alu8 (s : State) {r : Reg8} (hr : r ≠ .f) (op : Byte → AluResult) (m : FlagMask) :
    sameFlagsOutside m s (s.alu8 r op m) := by
  obtain ⟨hlow, -⟩ := alu8_frame s hr op m
  refine ⟨fun g hg => ?_, hlow⟩
  rw [flag_alu8 s r op m hr]
  cases g with
  | c =>
    have hmask : m.c = false := hg
    cases (op (s.reg8 r)).c <;> simp [hmask]
  | _ => exact if_neg (by simpa [FlagMask.allows] using hg)

/-- Every handler writes the flags of its row's mask alone. -/
theorem exec_flags {i : Instr} {u : State} (h : exec i s = .next u) : sameFlagsOutside i.handler.flagMask s u := by
  cases i with
  | incB => cases h; exact sameFlagsOutside_alu8 s (by decide) inc8 _
  | decB => cases h; exact sameFlagsOutside_alu8 s (by decide) dec8 _
  | rlca => cases h; exact sameFlagsOutside_alu8 s (by decide) rlc8 _
  | _ => cases h; exact sameFlagsOutside_of_f_eq rfl

/-- Settles O44: the opcode's row is the handler's. -/
theorem flagOutsideTheMaskIsKept : Obligations.FlagOutsideTheMaskIsKept := by
  intro s t h hstep hrow
  obtain ⟨i, u, hi, hexec, rfl⟩ := exec_of_step_next hstep
  obtain rfl : i.handler = h := Option.some.inj (hi.symm.trans hrow)
  obtain ⟨hflags, hlow⟩ := exec_flags hexec
  exact ⟨hflags .z, hflags .n, hflags .h, hflags .c, hlow⟩

/-! ### What a tick does not read -/

/-- What a tick fetches depends on memory and PC alone. -/
theorem instrBytes_congr (hmem : t.mem = s.mem) (hpc : t.pc = s.pc) : t.instrBytes = s.instrBytes := by
  rw [instrBytes_eq_fetchBytes, instrBytes_eq_fetchBytes, fetchBytes_eq_map, fetchBytes_eq_map, hmem, hpc]

/-- Where a tick completes, a state with the same memory, PC and latch runs the same instruction. -/
theorem exec_of_step_next_of_same_fetch (h : step s = .next t) :
    ∃ i u, exec i (s.advancePc 1) = .next u ∧ t = u.addCycles (i.handler.cost u.params) ∧
      ∀ s' u' : State, s'.mem = s.mem → s'.pc = s.pc → s'.fault = s.fault → exec i (s'.advancePc 1) = .next u' →
        step s' = .next (u'.addCycles (i.handler.cost u'.params)) := by
  obtain ⟨i, u, hf, hdecode, hexec, ht⟩ := decode_of_step_next h
  refine ⟨i, u, hexec, ht, fun s' u' hmem hpc hfault hexec' => ?_⟩
  rw [← instrBytes_congr hmem hpc] at hdecode
  exact step_of_decode (hfault.trans hf) hdecode hexec'

/-- An ALU instruction is a write of its register, and of F (R90). -/
theorem alu8_eq_setReg8_with_f (s : State) (r : Reg8) (op : Byte → AluResult) (m : FlagMask) :
    s.alu8 r op m = { s.setReg8 r (op (s.reg8 r)).res with f := (s.alu8 r op m).f } := by
  apply State.ext <;> simp [State.alu8]

/-- What an ALU instruction writes depends on its register and on F alone (R85). -/
theorem alu8_congr {s s' : State} {r : Reg8} (hr : r ≠ .f) (hreg : s'.reg8 r = s.reg8 r) (hf : s'.f = s.f)
    (op : Byte → AluResult) (m : FlagMask) :
    s'.alu8 r op m = { s'.setReg8 r (op (s.reg8 r)).res with f := (s.alu8 r op m).f } := by
  have hset : ∀ (t : State) (v : Byte), (t.setReg8 r v).f = t.f := by
    intro t v
    cases r with
    | f => exact absurd rfl hr
    | _ => rfl
  have hflags : (s'.alu8 r op m).f = (s.alu8 r op m).f := by
    rw [State.alu8, State.alu8, hreg]
    exact storeFlags_f_congr ((hset s' _).trans (hf.trans (hset s _).symm)) m _
  rw [← hflags, ← hreg]
  exact alu8_eq_setReg8_with_f s' r op m

/-- ALU instructions on a state with another F do the same but for what they leave in F (R30). -/
theorem alu8_with_f (s : State) (f : Byte) {r : Reg8} (hr : r ≠ .f) (op : Byte → AluResult) (m : FlagMask) :
    ∃ g : Byte, State.alu8 { s with f := f } r op m = { s.alu8 r op m with f := g } := by
  refine ⟨(State.alu8 { s with f := f } r op m).f, (alu8_eq_setReg8_with_f _ r op m).trans ?_⟩
  rw [alu8_eq_setReg8_with_f s r op m]
  cases r with
  | f => exact absurd rfl hr
  | _ => rfl

/-- ALU instructions on A or B carry D, E, H and L through. -/
theorem alu8_with_unused (s : State) (d e h l : Byte) {r : Reg8} (hr : r = .a ∨ r = .b) (op : Byte → AluResult)
    (m : FlagMask) :
    State.alu8 { s with d := d, e := e, h := h, l := l } r op m =
      { s.alu8 r op m with d := d, e := e, h := h, l := l } := by
  have hf : r ≠ .f := by rcases hr with rfl | rfl <;> decide
  have hreg : State.reg8 { s with d := d, e := e, h := h, l := l } r = s.reg8 r := by rcases hr with rfl | rfl <;> rfl
  refine (alu8_congr hf hreg rfl op m).trans ?_
  rw [alu8_eq_setReg8_with_f s r op m]
  rcases hr with rfl | rfl <;> rfl

/-- ALU instructions carry the counter through. -/
theorem alu8_with_cycles (s : State) (c : Nat) {r : Reg8} (hr : r ≠ .f) (op : Byte → AluResult) (m : FlagMask) :
    State.alu8 { s with cycles := c } r op m = { s.alu8 r op m with cycles := c } := by
  have hreg : State.reg8 { s with cycles := c } r = s.reg8 r := by cases r <;> rfl
  refine (alu8_congr hr hreg rfl op m).trans ?_
  rw [alu8_eq_setReg8_with_f s r op m]
  cases r <;> rfl

/-- Handlers of a state with another F do the same but for what they leave in F (R30). -/
theorem exec_with_f {i : Instr} {u : State} (f : Byte) (h : exec i s = .next u) :
    ∃ g : Byte, exec i { s with f := f } = .next { u with f := g } := by
  cases i with
  | incB => cases h; exact (alu8_with_f s f (by decide) inc8 _).imp fun _ => congrArg Host.Outcome.next
  | decB => cases h; exact (alu8_with_f s f (by decide) dec8 _).imp fun _ => congrArg Host.Outcome.next
  | rlca => cases h; exact (alu8_with_f s f (by decide) rlc8 _).imp fun _ => congrArg Host.Outcome.next
  | _ => cases h; exact ⟨f, rfl⟩

/-- Handlers neither read nor write D, E, H and L (R36). -/
theorem exec_with_unused {i : Instr} {u : State} (d e h l : Byte) (hexec : exec i s = .next u) :
    exec i { s with d := d, e := e, h := h, l := l } = .next { u with d := d, e := e, h := h, l := l } := by
  cases i with
  | incB => cases hexec; exact congrArg Host.Outcome.next (alu8_with_unused s d e h l (.inr rfl) inc8 _)
  | decB => cases hexec; exact congrArg Host.Outcome.next (alu8_with_unused s d e h l (.inr rfl) dec8 _)
  | rlca => cases hexec; exact congrArg Host.Outcome.next (alu8_with_unused s d e h l (.inl rfl) rlc8 _)
  | _ => cases hexec; rfl

/-- Handlers neither read nor write the counter (R31). -/
theorem exec_with_cycles {i : Instr} {u : State} (c : Nat) (h : exec i s = .next u) :
    exec i { s with cycles := c } = .next { u with cycles := c } := by
  cases i with
  | incB => cases h; exact congrArg Host.Outcome.next (alu8_with_cycles s c (by decide) inc8 _)
  | decB => cases h; exact congrArg Host.Outcome.next (alu8_with_cycles s c (by decide) dec8 _)
  | rlca => cases h; exact congrArg Host.Outcome.next (alu8_with_cycles s c (by decide) rlc8 _)
  | _ => cases h; rfl

/-- Settles O46: the handler of the same instruction does the same to all but F, and on a decode miss F plays no part. -/
theorem flagsAreNeverRead : Obligations.FlagsAreNeverRead := by
  intro s f
  constructor
  · intro t hstep
    obtain ⟨i, u, hexec, rfl, hsame⟩ := exec_of_step_next_of_same_fetch hstep
    obtain ⟨g, hg⟩ := exec_with_f f hexec
    exact ⟨g, hsame { s with f := f } _ rfl rfl rfl hg⟩
  · intro opcode address t hstep
    obtain ⟨hf, hop, hge, haddress, rfl⟩ := (unsupportedOpcodeExactly.1 s opcode address t).mp hstep
    exact (unsupportedOpcodeExactly.1 _ opcode address _).mpr ⟨hf, hop, hge, haddress, rfl⟩

/-- Settles O47: the handler of the same instruction carries D, E, H and L through. -/
theorem unusedRegistersAreNeverRead : Obligations.UnusedRegistersAreNeverRead := by
  intro s t d e h l hstep
  obtain ⟨i, u, hexec, rfl, hsame⟩ := exec_of_step_next_of_same_fetch hstep
  exact hsame { s with d := d, e := e, h := h, l := l } _ rfl rfl rfl (exec_with_unused d e h l hexec)

/-- Settles O48: the handler of the same instruction carries any counter through, and the row's cost is added to it. -/
theorem cycleCounterIsOnlyAddedTo : Obligations.CycleCounterIsOnlyAddedTo := by
  intro s t hstep
  obtain ⟨i, u, hexec, rfl, hsame⟩ := exec_of_step_next_of_same_fetch hstep
  obtain ⟨-, -, -, -, hparams⟩ := exec_frame hexec
  refine ⟨i.handler.cost u.params, Handler.cost_mem _ _, fun c => ?_⟩
  have hwidth : s.params.counterWidth = u.params.counterWidth := congrArg Params.counterWidth hparams.symm
  rw [hwidth]
  exact hsame { s with cycles := c } _ rfl rfl rfl (exec_with_cycles c hexec)

end Sys2Proof.Machine
end

section
/-! What a run of completed ticks adds up to (30_encoding.md R68; 40_dispatch.md R81, R83). Settles O49. -/

namespace Sys2Proof.Machine

variable {s t : State}

/-- A run of one tick more completes where its first tick does, and the rest from there. -/
theorem exists_step_of_run_succ {n : Nat} (h : Host.Core.run core (n + 1) s = .next t) :
    ∃ u, step s = .next u ∧ Host.Core.run core n u = .next t := by
  cases hstep : step s with
  | next u => exact ⟨u, rfl, (run_succ_of_step hstep n).symm.trans h⟩
  | fault r =>
    have hcore : core.step s = .fault r := hstep
    simp only [Host.Core.run, hcore] at h
    cases h
  | refused r => exact absurd hstep (supportedOpcodeCompletes.2 s r)

/-- A tick moves PC by 1, 2 or 3 bytes (R59, R83). -/
theorem step_pc_bounds (h : step s = .next t) : ∃ k, 1 ≤ k ∧ k ≤ 3 ∧ t.pc.toNat = (s.pc.toNat + k) % 65536 := by
  obtain ⟨i, -, hf, hdecode, -, -⟩ := decode_of_step_next h
  obtain ⟨v, hv, hpc⟩ := step_pc_of_decode hf hdecode
  cases hv.symm.trans h
  obtain ⟨hpos, hle⟩ := i.length_bounds
  refine ⟨i.length, hpos, hle, ?_⟩
  rw [hpc, State.advancePc_pc]
  simp

/-- A tick adds between 4 and 20 cycle units to an unbounded counter (R81). -/
theorem step_cycles_bounds (h : step s = .next t) (hwidth : s.params.counterWidth = none) :
    s.cycles + 4 ≤ t.cycles ∧ t.cycles ≤ s.cycles + 20 := by
  obtain ⟨i, -, hcycles⟩ := step_cycles h
  have hcost := Handler.cost_mem s.params i.handler
  rw [hwidth, wrapCounter] at hcycles
  simp only [List.mem_cons, List.not_mem_nil, or_false] at hcost
  omega

/-- Settles O49: by induction on the ticks, each with its own bounds. -/
theorem runBoundsCounterAndProgramCounter : Obligations.RunBoundsCounterAndProgramCounter := by
  intro n
  induction n with
  | zero =>
    intro s t h
    cases h
    exact ⟨fun _ => ⟨le_rfl, le_rfl⟩, 0, le_rfl, le_rfl, (Nat.mod_eq_of_lt s.pc.isLt).symm⟩
  | succ n ih =>
    intro s t h
    obtain ⟨u, hstep, hrun⟩ := exists_step_of_run_succ h
    obtain ⟨hcycles, k, hnk, hkn, hpc⟩ := ih u t hrun
    obtain ⟨j, hj1, hj3, hpcu⟩ := step_pc_bounds hstep
    obtain ⟨-, -, -, -, -, hparams, -⟩ := untouchedRegistersStay s u hstep
    constructor
    · intro hwidth
      obtain ⟨hlow, hhigh⟩ := step_cycles_bounds hstep hwidth
      obtain ⟨hlow', hhigh'⟩ := hcycles (by rw [hparams, hwidth])
      omega
    · exact ⟨j + k, by omega, by omega, by omega⟩

end Sys2Proof.Machine
end
